-- ==== Sys2Proof/Word.lean ====
section
/-! DEFINITION. The plain types of the machine: words, bytes, register numbers, conditions (spec/00_scope.md R11). -/

namespace Sys2Proof

/-- `Word16` of R11: every register, memory cell, address and instruction word. `+` on it is `+_16` of R12. -/
abbrev Word := BitVec 16

/-- `Byte` of R11: a key code or a console character. -/
abbrev Byte := BitVec 8

/-- `Reg` of R11: a register number, an integer in `0..7`. -/
abbrev Reg := Fin 8

/-- `Cond` of R11 and R27: the condition code is one of exactly three values. -/
inductive Cond where
  | positive
  | zero
  | negative
  deriving DecidableEq, Repr

end Sys2Proof
end

