-- ==== Sys2Proof/Syntax.lean ====
section
/-! DEFINITION. The instructions: one constructor for each of the 25 rows of spec/opcode_table.json (spec/30_encoding.md R110). -/

namespace Sys2Proof

/-- An instruction. Bits that no field covers are dropped, since they affect nothing (R106), except in the three
fatal rows, where the word itself is recorded in FAULT (R33, R201, R202) and so every bit of it is kept. -/
inductive Instr where
  /-- `ADD`, register form, R131. -/
  | addReg (dr sr1 sr2 : Reg)
  /-- `ADD.imm`, immediate form, R132. -/
  | addImm (dr sr1 : Reg) (imm5 : BitVec 5)
  /-- `AND`, register form, R133. -/
  | andReg (dr sr1 sr2 : Reg)
  /-- `AND.imm`, immediate form, R134. -/
  | andImm (dr sr1 : Reg) (imm5 : BitVec 5)
  /-- `NOT`, R135. -/
  | not (dr sr : Reg)
  /-- `BR`, R141. -/
  | br (n z p : Bool) (offset9 : BitVec 9)
  /-- `JMP`, R142. -/
  | jmp (baseR : Reg)
  /-- `JSR`, R143. -/
  | jsr (offset11 : BitVec 11)
  /-- `JSRR`, R144. -/
  | jsrr (baseR : Reg)
  /-- `LD`, R151. -/
  | ld (dr : Reg) (offset9 : BitVec 9)
  /-- `LDI`, R152. -/
  | ldi (dr : Reg) (offset9 : BitVec 9)
  /-- `LDR`, R153. -/
  | ldr (dr baseR : Reg) (offset6 : BitVec 6)
  /-- `LEA`, R154. -/
  | lea (dr : Reg) (offset9 : BitVec 9)
  /-- `ST`, R155. -/
  | st (sr : Reg) (offset9 : BitVec 9)
  /-- `STI`, R156. -/
  | sti (sr : Reg) (offset9 : BitVec 9)
  /-- `STR`, R157. -/
  | str (sr baseR : Reg) (offset6 : BitVec 6)
  /-- `TRAP.GETC`, vector `0x20`, R172. -/
  | trapGetc
  /-- `TRAP.OUT`, vector `0x21`, R173. -/
  | trapOut
  /-- `TRAP.PUTS`, vector `0x22`, R174. -/
  | trapPuts
  /-- `TRAP.IN`, vector `0x23`, R175. -/
  | trapIn
  /-- `TRAP.PUTSP`, vector `0x24`, R176. -/
  | trapPutsp
  /-- `TRAP.HALT`, vector `0x25`, R177. -/
  | trapHalt
  /-- `TRAP.unknown`, any other vector, R178. `ignored` is `ir[11:8]`. -/
  | trapUnknown (ignored : BitVec 4) (trapvect8 : BitVec 8)
  /-- `RTI`, R179. `ignored` is `ir[11:0]`. -/
  | rti (ignored : BitVec 12)
  /-- `RES`, R180. `ignored` is `ir[11:0]`. -/
  | res (ignored : BitVec 12)
  deriving DecidableEq, Repr

end Sys2Proof
end

