-- ==== Sys2Proof/WellFormed.lean ====
section
/-! DEFINITION. Which terms of Instr stand for an instruction word. The field types already bound every operand;
the one condition left is that of the row TRAP.unknown (spec/30_encoding.md R108, R110). -/

namespace Sys2Proof

/-- R108: the six vectors that have a console routine, `0x20` to `0x25`. -/
def definedVector (v : BitVec 8) : Bool := 0x20#8 ≤ v && v ≤ 0x25#8

/-- The row TRAP.unknown is taken only when no routine row matches (R110); every other term is well formed. -/
def Instr.wf : Instr → Bool
  | .addReg _ _ _ => true
  | .addImm _ _ _ => true
  | .andReg _ _ _ => true
  | .andImm _ _ _ => true
  | .not _ _ => true
  | .br _ _ _ _ => true
  | .jmp _ => true
  | .jsr _ => true
  | .jsrr _ => true
  | .ld _ _ => true
  | .ldi _ _ => true
  | .ldr _ _ _ => true
  | .lea _ _ => true
  | .st _ _ => true
  | .sti _ _ => true
  | .str _ _ _ => true
  | .trapGetc => true
  | .trapOut => true
  | .trapPuts => true
  | .trapIn => true
  | .trapPutsp => true
  | .trapHalt => true
  | .trapUnknown _ v => !definedVector v
  | .rti _ => true
  | .res _ => true

end Sys2Proof
end

