-- ==== Sys2Proof/Decode.lean ====
section
/-! DEFINITION. From an instruction word to an instruction and back (spec/30_encoding.md). Every instruction is one
16-bit word (R90). The decoder is total and a pure function of the word (R110), and sign extension lives here (R13). -/

namespace Sys2Proof

/-- The closed set of 16 opcode variants (R91); `rti` and `res` are the two reserved ones. -/
inductive Opcode where
  | br | add | ld | st | jsr | and | ldr | str | rti | not | ldi | sti | jmp | res | lea | trap
  deriving DecidableEq, Repr

/-- R93: the opcode a value of `ir[15:12]` selects. -/
def Opcode.ofField (f : BitVec 4) : Opcode :=
  match f with
  | 0x0#4 => .br
  | 0x1#4 => .add
  | 0x2#4 => .ld
  | 0x3#4 => .st
  | 0x4#4 => .jsr
  | 0x5#4 => .and
  | 0x6#4 => .ldr
  | 0x7#4 => .str
  | 0x8#4 => .rti
  | 0x9#4 => .not
  | 0xA#4 => .ldi
  | 0xB#4 => .sti
  | 0xC#4 => .jmp
  | 0xD#4 => .res
  | 0xE#4 => .lea
  | _ => .trap -- `0xF`, the one value left

/-- R13: `sext_N`, for the immediate and offset fields of 5, 6, 9 and 11 bits. -/
def sext {n : Nat} (f : BitVec n) : Word := f.signExtend 16

/-- The 3-bit register field of `w` whose lowest bit is bit `lo` (R92). -/
def regField (w : Word) (lo : Nat) : Reg := (w.extractLsb' lo 3).toFin

/-- `ir[15:12]` (R91). -/
def opcodeField (w : Word) : BitVec 4 := w.extractLsb' 12 4

/-- `imm5 = ir[4:0]` (R105). -/
def imm5Field (w : Word) : BitVec 5 := w.extractLsb' 0 5

/-- `offset6 = ir[5:0]` (R105). -/
def offset6Field (w : Word) : BitVec 6 := w.extractLsb' 0 6

/-- `PCoffset9 = ir[8:0]` (R105). -/
def offset9Field (w : Word) : BitVec 9 := w.extractLsb' 0 9

/-- `PCoffset11 = ir[10:0]` (R105). -/
def offset11Field (w : Word) : BitVec 11 := w.extractLsb' 0 11

/-- `trapvect8 = ir[7:0]` (R103). -/
def trapvectField (w : Word) : BitVec 8 := w.extractLsb' 0 8

/-- The TRAP row that a vector selects (R108, R171); `ignored` is `ir[11:8]`, kept for the fault record only. -/
def decodeTrap (ignored : BitVec 4) (v : BitVec 8) : Instr :=
  if v = 0x20#8 then .trapGetc
  else if v = 0x21#8 then .trapOut
  else if v = 0x22#8 then .trapPuts
  else if v = 0x23#8 then .trapIn
  else if v = 0x24#8 then .trapPutsp
  else if v = 0x25#8 then .trapHalt
  else .trapUnknown ignored v

/-- R110's decision order: `ir[15:12]`; then `ir[5]` for opcodes 1 and 5, `ir[11]` for opcode 4, the vector for
opcode 15. The formats are R94 to R104. -/
def decode (w : Word) : Instr :=
  match Opcode.ofField (opcodeField w) with
  | .add => if w.getLsbD 5 then .addImm (regField w 9) (regField w 6) (imm5Field w) else .addReg (regField w 9) (regField w 6) (regField w 0)
  | .and => if w.getLsbD 5 then .andImm (regField w 9) (regField w 6) (imm5Field w) else .andReg (regField w 9) (regField w 6) (regField w 0)
  | .not => .not (regField w 9) (regField w 6)
  | .br => .br (w.getLsbD 11) (w.getLsbD 10) (w.getLsbD 9) (offset9Field w)
  | .jmp => .jmp (regField w 6)
  | .jsr => if w.getLsbD 11 then .jsr (offset11Field w) else .jsrr (regField w 6)
  | .ld => .ld (regField w 9) (offset9Field w)
  | .ldi => .ldi (regField w 9) (offset9Field w)
  | .ldr => .ldr (regField w 9) (regField w 6) (offset6Field w)
  | .lea => .lea (regField w 9) (offset9Field w)
  | .st => .st (regField w 9) (offset9Field w)
  | .sti => .sti (regField w 9) (offset9Field w)
  | .str => .str (regField w 9) (regField w 6) (offset6Field w)
  | .trap => decodeTrap (w.extractLsb' 8 4) (trapvectField w)
  | .rti => .rti (w.extractLsb' 0 12)
  | .res => .res (w.extractLsb' 0 12)

/-- A register number as its 3-bit field. -/
def regBits (r : Reg) : BitVec 3 := BitVec.ofFin r

/-- A condition bit of BR as a field of one bit. -/
def flagBit (b : Bool) : BitVec 1 := BitVec.ofBool b

/-- The instruction word of an instruction, with the canonical value in every ignored bit (R94 to R104). -/
def encode : Instr → Word
  | .addReg dr sr1 sr2 => 0x1#4 ++ regBits dr ++ regBits sr1 ++ 0#3 ++ regBits sr2
  | .addImm dr sr1 imm5 => 0x1#4 ++ regBits dr ++ regBits sr1 ++ 1#1 ++ imm5
  | .andReg dr sr1 sr2 => 0x5#4 ++ regBits dr ++ regBits sr1 ++ 0#3 ++ regBits sr2
  | .andImm dr sr1 imm5 => 0x5#4 ++ regBits dr ++ regBits sr1 ++ 1#1 ++ imm5
  | .not dr sr => 0x9#4 ++ regBits dr ++ regBits sr ++ 0x3F#6
  | .br n z p offset9 => 0x0#4 ++ flagBit n ++ flagBit z ++ flagBit p ++ offset9
  | .jmp baseR => 0xC#4 ++ 0#3 ++ regBits baseR ++ 0#6
  | .jsr offset11 => 0x4#4 ++ 1#1 ++ offset11
  | .jsrr baseR => 0x4#4 ++ 0#3 ++ regBits baseR ++ 0#6
  | .ld dr offset9 => 0x2#4 ++ regBits dr ++ offset9
  | .ldi dr offset9 => 0xA#4 ++ regBits dr ++ offset9
  | .ldr dr baseR offset6 => 0x6#4 ++ regBits dr ++ regBits baseR ++ offset6
  | .lea dr offset9 => 0xE#4 ++ regBits dr ++ offset9
  | .st sr offset9 => 0x3#4 ++ regBits sr ++ offset9
  | .sti sr offset9 => 0xB#4 ++ regBits sr ++ offset9
  | .str sr baseR offset6 => 0x7#4 ++ regBits sr ++ regBits baseR ++ offset6
  | .trapGetc => 0xF#4 ++ 0#4 ++ 0x20#8
  | .trapOut => 0xF#4 ++ 0#4 ++ 0x21#8
  | .trapPuts => 0xF#4 ++ 0#4 ++ 0x22#8
  | .trapIn => 0xF#4 ++ 0#4 ++ 0x23#8
  | .trapPutsp => 0xF#4 ++ 0#4 ++ 0x24#8
  | .trapHalt => 0xF#4 ++ 0#4 ++ 0x25#8
  | .trapUnknown ignored v => 0xF#4 ++ ignored ++ v
  | .rti ignored => 0x8#4 ++ ignored
  | .res ignored => 0xD#4 ++ ignored

/-- The `match` and `mask` of an instruction's row in spec/opcode_table.json, written out from the table: a word `w`
belongs to the row iff `w &&& mask = match` (R110). -/
def Instr.matchMask : Instr → Word × Word
  | .addReg _ _ _ => (0x1000, 0xF020)
  | .addImm _ _ _ => (0x1020, 0xF020)
  | .andReg _ _ _ => (0x5000, 0xF020)
  | .andImm _ _ _ => (0x5020, 0xF020)
  | .not _ _ => (0x9000, 0xF000)
  | .br _ _ _ _ => (0x0000, 0xF000)
  | .jmp _ => (0xC000, 0xF000)
  | .jsr _ => (0x4800, 0xF800)
  | .jsrr _ => (0x4000, 0xF800)
  | .ld _ _ => (0x2000, 0xF000)
  | .ldi _ _ => (0xA000, 0xF000)
  | .ldr _ _ _ => (0x6000, 0xF000)
  | .lea _ _ => (0xE000, 0xF000)
  | .st _ _ => (0x3000, 0xF000)
  | .sti _ _ => (0xB000, 0xF000)
  | .str _ _ _ => (0x7000, 0xF000)
  | .trapGetc => (0xF020, 0xF0FF)
  | .trapOut => (0xF021, 0xF0FF)
  | .trapPuts => (0xF022, 0xF0FF)
  | .trapIn => (0xF023, 0xF0FF)
  | .trapPutsp => (0xF024, 0xF0FF)
  | .trapHalt => (0xF025, 0xF0FF)
  | .trapUnknown _ _ => (0xF000, 0xF000)
  | .rti _ => (0x8000, 0xF000)
  | .res _ => (0xD000, 0xF000)

/-- The bits of an instruction's row that no field covers (U4): the table's `ignored` fields. -/
def Instr.ignoredBits : Instr → Word
  | .addReg _ _ _ => 0x0018
  | .addImm _ _ _ => 0x0000
  | .andReg _ _ _ => 0x0018
  | .andImm _ _ _ => 0x0000
  | .not _ _ => 0x003F
  | .br _ _ _ _ => 0x0000
  | .jmp _ => 0x0E3F
  | .jsr _ => 0x0000
  | .jsrr _ => 0x063F
  | .ld _ _ => 0x0000
  | .ldi _ _ => 0x0000
  | .ldr _ _ _ => 0x0000
  | .lea _ _ => 0x0000
  | .st _ _ => 0x0000
  | .sti _ _ => 0x0000
  | .str _ _ _ => 0x0000
  | .trapGetc => 0x0F00
  | .trapOut => 0x0F00
  | .trapPuts => 0x0F00
  | .trapIn => 0x0F00
  | .trapPutsp => 0x0F00
  | .trapHalt => 0x0F00
  | .trapUnknown _ _ => 0x0F00
  | .rti _ => 0x0FFF
  | .res _ => 0x0FFF

/-- The instruction that the decoder reads from a table row's word: the one cell's low `nbits` bits, the bits above
them 0. Every instruction is one cell of 16 bits (R90), so a longer word is no instruction. -/
def decodeTableWord (nbits w : Nat) : Option Instr :=
  if nbits ≤ 16 then some (decode (BitVec.ofNat 16 (w % 2 ^ nbits))) else none

end Sys2Proof
end

