-- ==== Sys2Proof/Config.lean ====
section
/-! DEFINITION. The parameters the spec leaves open (spec/00_scope.md R8) and the free values (spec/93_implementation_defined.md U1). -/

namespace Sys2Proof

/-- The named parameters of R8. The machine carries them in `State.cfg`, so that a statement about every state
holds for every value of them (R41: a model that must not depend on the decided rows quantifies over them). -/
structure Config where
  /-- `KBSR_ADDR`: the address of the keyboard status register (R37). -/
  kbsrAddr   : Word
  /-- `KBDR_ADDR`: the address of the keyboard data register (R37). -/
  kbdrAddr   : Word
  /-- `START_PC`: the reset input that PC starts from (R232). -/
  startPc    : Word
  /-- `RESET_GPR`: the reset values of `R0..R7` (R41). -/
  resetGpr   : Vector Word 8
  /-- `RESET_COND`: the reset value of COND (R41). -/
  resetCond  : Cond
  /-- `IN_PROMPT`: what TRAP IN writes before it waits (R175). -/
  inPrompt   : List Byte
  /-- `HALT_NOTICE`: what TRAP HALT writes (R177). -/
  haltNotice : List Byte
  deriving DecidableEq, Repr

/-- R8's constraint on the parameters: the two device addresses are distinct. -/
abbrev Config.wf (c : Config) : Prop := c.kbdrAddr ≠ c.kbsrAddr

/-- ASCII `Enter a character: `, 19 bytes, the default of `IN_PROMPT` (R8, log entry 5). -/
def Config.defaultPrompt : List Byte :=
  [0x45, 0x6E, 0x74, 0x65, 0x72, 0x20, 0x61, 0x20, 0x63, 0x68, 0x61, 0x72, 0x61, 0x63, 0x74, 0x65, 0x72, 0x3A, 0x20]

/-- ASCII `HALT` and a line feed, the default of `HALT_NOTICE` (R8, log entry 5). -/
def Config.defaultNotice : List Byte := [0x48, 0x41, 0x4C, 0x54, 0x0A]

/-- The default of every parameter, as R8's table gives it (log entries 2 to 5). -/
def Config.standard : Config where
  kbsrAddr   := 0xFE00
  kbdrAddr   := 0xFE02
  startPc    := 0x3000
  resetGpr   := Vector.replicate 8 0
  resetCond  := .zero
  inPrompt   := Config.defaultPrompt
  haltNotice := Config.defaultNotice

/-- The unspecified word that the `n`-th read of KBDR with no key pending returns (R56, U1; log entry 1).
It has no body: nothing in Lean can evaluate it. -/
opaque Config.freeWord : Nat → Word

end Sys2Proof
end

