-- ==== Sys2Proof/Machine/State.lean ====
section
/-! DEFINITION. The state of the machine as plain data (spec/10_state.md), the reasons a step can stop, and reset. -/

namespace Sys2Proof.Machine

/-- `RUN`, R32. -/
inductive Run where
  | running
  | halted
  deriving DecidableEq, Repr

/-- The two kinds of fatal error, R33, R201, R202. -/
inductive FaultKind where
  | illegalOpcode
  | unknownTrapVector
  deriving DecidableEq, Repr

/-- What a fatal error records, R33: its kind, the address the offending word was fetched from, and the word. -/
structure FaultRecord where
  kind : FaultKind
  addr : Word
  word : Word
  deriving DecidableEq, Repr

/-- `WAIT`, R34: `NONE`, or which of the two blocking routines waits for a key. -/
inductive Wait where
  | none
  | getc
  | inKey
  deriving DecidableEq, Repr

/-- `MEM`, R36: the listed cells as (address, cell) pairs, addresses strictly rising, no listed cell 0. An address that
is not listed reads as `0x0000` (R41). The unit is the 16-bit cell (R51; log entry 9). -/
abbrev Memory := List (Nat × Word)

/-- Everything the spec gives the machine (R20 to R39), the parameters of the run (R40), and one field of the model's
own, `draws`. -/
structure State where
  /-- `R0..R7`, R20. -/
  regs     : Vector Word 8
  /-- `PC`, R24. -/
  pc       : Word
  /-- `COND`, R27. -/
  cond     : Cond
  /-- `RUN`, R32. -/
  run      : Run
  /-- `FAULT`, R33. -/
  fault    : Option FaultRecord
  /-- `WAIT`, R34. -/
  wait     : Wait
  /-- `MEM`, R36. -/
  mem      : Memory
  /-- `KBQ`, R38: the pending keys, head first. -/
  kbq      : List Byte
  /-- `OUT`, R39: the bytes written to the console, oldest first. -/
  out      : List Byte
  /-- The parameters of R8, fixed for the whole run (R245). -/
  cfg      : Config
  /-- The future key arrivals of R40, R59: the head holds the keys that arrive before the next step (log entry 7). -/
  arrivals : List (List Byte)
  /-- The model's own: how many unspecified words have been drawn so far (log entry 1). -/
  draws    : Nat
  deriving DecidableEq, Repr

/-- Why a step has no next state. None of these is a fatal error of the spec: a fatal error is a next state whose
`fault` field holds the record (R203). -/
inductive Fault where
  /-- Raised by `step` when `RUN = HALTED`: no step is enabled (R242). Safe: the machine does not go on either. -/
  | coreHalted
  /-- Raised by `step` when the core waits for a key, none is pending and the schedule of arrivals holds none
  (R182, U16): no step is enabled. Safe: the machine does not go on either. -/
  | keyNeverArrives
  /-- Raised by TRAP PUTS and TRAP PUTSP when no cell on the walk reads zero, so that the instruction never completes
  (R252, U7). Safe: it never completes on the machine either, and with distinct device addresses it is never raised. -/
  | stringNeverEnds
  deriving DecidableEq, Repr

/-- Why the model gives no meaning. -/
inductive Refusal where
  /-- Raised by an arm of `exec` whose instruction has no meaning yet; no arm does. Safe. -/
  | notModelled (mnemonic : String)
  /-- Raised by `loadImage` for an image that runs past `0xFFFF`, which the host owes not to load (R73, U5). Safe. -/
  | imageTooLong
  deriving DecidableEq, Repr

/-- The state after reset for any value of the parameters, R41 and R231. -/
def State.resetWith (c : Config) : State where
  regs     := c.resetGpr
  pc       := c.startPc
  cond     := c.resetCond
  run      := .running
  fault    := none
  wait     := .none
  mem      := []
  kbq      := []
  out      := []
  cfg      := c
  arrivals := []
  draws    := 0

/-- The machine right after reset, with R8's defaults. -/
def State.reset : State := State.resetWith Config.standard

end Sys2Proof.Machine
end

