-- ==== Sys2Proof/Machine/Memory.lean ====
section
/-! DEFINITION. Plain storage: reading and writing one cell of the canonical list (spec/20_memory.md R50, R67). Device
interception is in Machine/Ops.lean. -/

namespace Sys2Proof.Machine

/-- What an address that is not listed reads as: memory is "initialized to zero before program load" (R41). -/
def Memory.unlisted : Word := 0

/-- The cell at address `a`. -/
def Memory.read (m : Memory) (a : Nat) : Word :=
  match m with
  | [] => Memory.unlisted
  | (b, v) :: rest => if a = b then v else Memory.read rest a

/-- One entry in front of `m`, unless it says what an unlisted address says anyway. -/
def Memory.put (a : Nat) (v : Word) (m : Memory) : Memory :=
  if v = Memory.unlisted then m else (a, v) :: m

/-- Store `v` in the cell at address `a`, keeping the canonical form. -/
def Memory.write (m : Memory) (a : Nat) (v : Word) : Memory :=
  match m with
  | [] => Memory.put a v []
  | (b, u) :: rest =>
    if a < b then Memory.put a v ((b, u) :: rest)
    else if a = b then Memory.put a v rest
    else (b, u) :: Memory.write rest a v

/-- The canonical form from address `lo` upward: addresses strictly rising and in the space of 65,536 cells, no listed
cell equal to what an unlisted one reads as. -/
def Memory.wfFrom (lo : Nat) (m : Memory) : Bool :=
  match m with
  | [] => true
  | (b, u) :: rest => decide (lo ≤ b) && decide (b < 65536) && decide (u ≠ Memory.unlisted) && Memory.wfFrom (b + 1) rest

/-- The canonical form of memory. -/
def Memory.wf (m : Memory) : Bool := Memory.wfFrom 0 m

end Sys2Proof.Machine
end

