-- ==== Sys2Proof/Machine/Ops.lean ====
section
/-! DEFINITION. The named operations over registers, memory, devices and console (spec/00_scope.md R14), and the one
exception of this hardware, the fatal error (spec/60_exceptions.md R203). It has no return (R211). -/

namespace Sys2Proof.Machine

/-- The low 8 bits of a cell, the character that OUT, PUTS and PUTSP write first (R51, R66). -/
def lowByte (w : Word) : Byte := w.extractLsb' 0 8

/-- The high 8 bits of a cell, PUTSP's second character (R66). -/
def highByte (w : Word) : Byte := w.extractLsb' 8 8

/-- `zext_8` of R13: a key code as a word. -/
def zext8 (b : Byte) : Word := b.setWidth 16

/-! ### Registers and PC -/

/-- `x[i]`, R20. No register is hardwired (R21). -/
def State.reg (s : State) (r : Reg) : Word := s.regs[r.val]

/-- `x[i] <- v`, R20. -/
def State.setReg (s : State) (r : Reg) (v : Word) : State := { s with regs := s.regs.set r.val v }

/-- `pc <- t`, R24. -/
def State.setPc (s : State) (t : Word) : State := { s with pc := t }

/-- `R7 <- pc`: what JSR, JSRR and every TRAP do first (R22). -/
def State.link (s : State) : State := s.setReg 7 s.pc

/-! ### The keyboard (R58) -/

/-- `KeyPending()`: no side effect. -/
def State.keyPending (s : State) : Bool := !s.kbq.isEmpty

/-- What a KBSR read returns: `0x8000` if a key is pending, else `0x0000` (R54). -/
def State.kbsrValue (s : State) : Word := if s.keyPending then 0x8000 else 0x0000

/-- A KBDR read (R55, R56): the pending key, which is consumed (`KeyTake()`); with no key pending an unspecified word,
a fresh one at each such read, and no other change (log entry 1). -/
def State.readKbdr (s : State) : Word × State :=
  match s.kbq with
  | key :: rest => (zext8 key, { s with kbq := rest })
  | [] => (Config.freeWord s.draws, { s with draws := s.draws + 1 })

/-! ### Memory -/

/-- An address is one of the two device registers (R37, R68). -/
def State.isDevice (s : State) (a : Word) : Bool := a == s.cfg.kbsrAddr || a == s.cfg.kbdrAddr

/-- `MEM[a]`, without the device interception. -/
def State.cell (s : State) (a : Word) : Word := s.mem.read a.toNat

/-- `MemRead(a, 1)`, R52: every read of the machine, the fetch among them. -/
def State.memRead (s : State) (a : Word) : Word × State :=
  if a = s.cfg.kbsrAddr then (s.kbsrValue, s)
  else if a = s.cfg.kbdrAddr then s.readKbdr
  else (s.cell a, s)

/-- `MemWrite(a, 1, v)`, R53: every write of the machine. A write to a device address changes nothing. -/
def State.memWrite (s : State) (a v : Word) : State :=
  if s.isDevice a then s else { s with mem := s.mem.write a.toNat v }

/-! ### Console output -/

/-- `ConsoleOut(b)` for each byte of a list in turn (R39, R58): the core only appends. -/
def State.consoleOut (s : State) (bs : List Byte) : State := { s with out := s.out ++ bs }

/-! ### Control state -/

/-- `RUN <- r`, R32. -/
def State.setRun (s : State) (r : Run) : State := { s with run := r }

/-- `WAIT <- w`, R34. -/
def State.setWait (s : State) (w : Wait) : State := { s with wait := w }

/-- `raise Fatal(kind, (pc −_16 1, word))`, R203: taking the machine's one exception. It records the fault and stops
the core; it changes nothing else (R210), and it has no return (R211, R222). -/
def State.raiseFatal (s : State) (kind : FaultKind) (word : Word) : State :=
  { s with fault := some { kind := kind, addr := s.pc - 1, word := word }, run := .halted }

/-! ### Fetch -/

/-- R240: `ir <- MemRead(PC, 1)`, then `PC <- PC +_16 1`. The fetch is intercepted like any read (R77), and the
increment wraps (R26). -/
def State.fetch (s : State) : Word × State :=
  let r := s.memRead s.pc
  (r.1, r.2.setPc (s.pc + 1))

end Sys2Proof.Machine
end

