-- ==== Sys2Proof/Machine/Flags.lean ====
section
/-! DEFINITION. The condition code: how COND is set and how BR tests it (spec/10_state.md R27 to R30). There is no other
flag: no carry and no overflow (spec/40_operate.md R136). -/

namespace Sys2Proof.Machine

/-- R29: the condition a word stands for. -/
def condOf (v : Word) : Cond :=
  if v.getLsbD 15 then .negative
  else if v = 0 then .zero
  else .positive

/-- `setcc(v)`, R29. -/
def State.setcc (s : State) (v : Word) : State := { s with cond := condOf v }

/-- `x[DR] <- v` and then `setcc(v)`: how the seven flag-setting instructions of R30 end. -/
def State.writeResult (s : State) (dr : Reg) (v : Word) : State := (s.setReg dr v).setcc v

/-- R28: the 3-bit encoding of COND. -/
def condBits : Cond → BitVec 3
  | .positive => 0b001
  | .zero => 0b010
  | .negative => 0b100

/-- `ir[11:9]` of a BR, built from its three condition bits (R97). -/
def condField (n z p : Bool) : BitVec 3 := flagBit n ++ flagBit z ++ flagBit p

/-- R141: `(ir[11:9] & COND) ≠ 0`. -/
def branchTaken (n z p : Bool) (c : Cond) : Bool := condField n z p &&& condBits c != 0

end Sys2Proof.Machine
end

