-- ==== Sys2Proof/Machine/Operands.lean ====
section
/-! DEFINITION. The operand forms: immediates and the three addressing modes (spec/30_encoding.md R105,
spec/42_load_store.md R150). Every sum wraps modulo 65,536 (spec/20_memory.md R63). `s.pc` is the PC after the fetch
increment (R24). -/

namespace Sys2Proof.Machine

/-- `pc +_16 sext_9(PCoffset9)`: PC-relative, for LD, ST, LEA, BR and the pointer cell of LDI and STI. -/
def State.pcRelative (s : State) (offset9 : BitVec 9) : Word := s.pc + sext offset9

/-- `pc +_16 sext_11(PCoffset11)`: the target of JSR (R143). -/
def State.pcRelativeLong (s : State) (offset11 : BitVec 11) : Word := s.pc + sext offset11

/-- `x[BaseR] +_16 sext_6(offset6)`: base and offset, for LDR and STR. -/
def State.baseOffset (s : State) (baseR : Reg) (offset6 : BitVec 6) : Word := s.reg baseR + sext offset6

/-- The indirect mode of LDI and STI: the pointer `p = MemRead(pc +_16 sext_9(PCoffset9), 1)`, which is the effective
address, and the state after that read. -/
def State.indirect (s : State) (offset9 : BitVec 9) : Word × State := s.memRead (s.pcRelative offset9)

/-- A load that ends in `DR` (R151 to R153): `v <- MemRead(ea, 1)`, then `x[DR] <- v` and `setcc(v)`. -/
def State.loadTo (s : State) (dr : Reg) (ea : Word) : State :=
  let r := s.memRead ea
  r.2.writeResult dr r.1

end Sys2Proof.Machine
end

