-- ==== Sys2Proof/Machine/Control.lean ====
section
/-! DEFINITION. BR, JMP, JSR and JSRR (spec/41_control.md). None writes COND and none reads memory (R140). -/

namespace Sys2Proof.Machine

/-- R141. -/
def execBr (n z p : Bool) (offset9 : BitVec 9) (s : State) : Host.Outcome State Fault Refusal :=
  .next (if branchTaken n z p s.cond then s.setPc (s.pcRelative offset9) else s)

/-- R142. -/
def execJmp (baseR : Reg) (s : State) : Host.Outcome State Fault Refusal :=
  .next (s.setPc (s.reg baseR))

/-- R143: `R7` gets the PC before the jump, and the target is computed from that same PC. -/
def execJsr (offset11 : BitVec 11) (s : State) : Host.Outcome State Fault Refusal :=
  .next (s.link.setPc (s.pcRelativeLong offset11))

/-- R144: `R7` is written first, so with `BaseR = 7` the new `R7` is the target (D15; log entry 12). -/
def execJsrr (baseR : Reg) (s : State) : Host.Outcome State Fault Refusal :=
  .next (s.link.setPc (s.link.reg baseR))

end Sys2Proof.Machine
end

