-- ==== Sys2Proof/Machine/LoadStore.lean ====
section
/-! DEFINITION. LD, LDI, LDR, LEA, ST, STI and STR (spec/42_load_store.md). No load or store can fault (R62). -/

namespace Sys2Proof.Machine

/-- R151. -/
def execLd (dr : Reg) (offset9 : BitVec 9) (s : State) : Host.Outcome State Fault Refusal :=
  .next (s.loadTo dr (s.pcRelative offset9))

/-- R152: the pointer read, then the datum read, each through `MemRead`. -/
def execLdi (dr : Reg) (offset9 : BitVec 9) (s : State) : Host.Outcome State Fault Refusal :=
  .next ((s.indirect offset9).2.loadTo dr (s.indirect offset9).1)

/-- R153. -/
def execLdr (dr baseR : Reg) (offset6 : BitVec 6) (s : State) : Host.Outcome State Fault Refusal :=
  .next (s.loadTo dr (s.baseOffset baseR offset6))

/-- R154: the address itself, and no memory access. -/
def execLea (dr : Reg) (offset9 : BitVec 9) (s : State) : Host.Outcome State Fault Refusal :=
  .next (s.writeResult dr (s.pcRelative offset9))

/-- R155. -/
def execSt (sr : Reg) (offset9 : BitVec 9) (s : State) : Host.Outcome State Fault Refusal :=
  .next (s.memWrite (s.pcRelative offset9) (s.reg sr))

/-- R156: the pointer read, then the write. -/
def execSti (sr : Reg) (offset9 : BitVec 9) (s : State) : Host.Outcome State Fault Refusal :=
  .next ((s.indirect offset9).2.memWrite (s.indirect offset9).1 (s.reg sr))

/-- R157. -/
def execStr (sr baseR : Reg) (offset6 : BitVec 6) (s : State) : Host.Outcome State Fault Refusal :=
  .next (s.memWrite (s.baseOffset baseR offset6) (s.reg sr))

end Sys2Proof.Machine
end

