-- ==== Sys2Proof/Machine/Reserved.lean ====
section
/-! DEFINITION. The two reserved opcodes, RTI and RES: each raises the fatal error IllegalOpcode (spec/43_trap.md R179,
R180; spec/60_exceptions.md R201). -/

namespace Sys2Proof.Machine

/-- R179. -/
def execRti (ignored : BitVec 12) (s : State) : Host.Outcome State Fault Refusal :=
  .next (s.raiseFatal .illegalOpcode (encode (.rti ignored)))

/-- R180. -/
def execRes (ignored : BitVec 12) (s : State) : Host.Outcome State Fault Refusal :=
  .next (s.raiseFatal .illegalOpcode (encode (.res ignored)))

end Sys2Proof.Machine
end

