-- ==== Sys2Proof/Machine/Trap.lean ====
section
/-! DEFINITION. TRAP: the six console routines that the trap dispatcher performs itself, and the unknown vector
(spec/43_trap.md). Every TRAP writes `R7` first, none writes COND, and PC stays at the instruction after it (R170). -/

namespace Sys2Proof.Machine

/-! ### Waiting for a key (R182) -/

/-- Phase 2 of R182: take the key, echo it if the routine is IN, put it in `R0`, end the wait. -/
def State.completeKeyWait (s : State) (w : Wait) : State :=
  let r := s.memRead s.cfg.kbdrAddr
  let echoed := if w = .inKey then r.2.consoleOut [lowByte r.1] else r.2
  (echoed.setReg 0 r.1).setWait .none

/-- The end of phase 1 of R182: with a key pending phase 2 follows in the same step, else the core is suspended. -/
def State.awaitKey (s : State) (w : Wait) : State :=
  if s.keyPending then s.completeKeyWait w else s.setWait w

/-! ### Strings in memory (R174, R176) -/

/-- What PUTS writes for a non-zero cell: its low byte (R174). -/
def putsBytes (c : Word) : List Byte := [lowByte c]

/-- What PUTSP writes for a non-zero cell: its low byte, then its high byte if that is not zero (R176). -/
def putspBytes (c : Word) : List Byte :=
  if highByte c = 0 then [lowByte c] else [lowByte c, highByte c]

/-- The loop of R174 and R176, for at most `fuel` cell reads: read the cell at `a`; a zero cell ends the string; else
write its characters and go on at `a +_16 1`. `none` if no cell read was zero. -/
def State.walkString (chars : Word → List Byte) (fuel : Nat) (a : Word) (s : State) : Option State :=
  match fuel with
  | 0 => none
  | fuel + 1 =>
    let r := s.memRead a
    if r.1 = 0 then some r.2
    else State.walkString chars fuel (a + 1) (r.2.consoleOut (chars r.1))

/-- As many cell reads as a walk can need (log entry 8): a turn through the 65,536 addresses that does not end has found
a key pending at KBSR and has taken one at KBDR, and with no key left KBSR reads zero. -/
def State.walkFuel (s : State) : Nat := (s.kbq.length + 1) * 65536

/-- PUTS and PUTSP after the write of `R7`: the whole walk is one step (R174). -/
def State.writeString (chars : Word → List Byte) (s : State) : Host.Outcome State Fault Refusal :=
  match State.walkString chars s.walkFuel (s.reg 0) s with
  | some t => .next t
  | none => .fault .stringNeverEnds

/-! ### The routines -/

/-- TRAP GETC, R172 and R182. -/
def execTrapGetc (s : State) : Host.Outcome State Fault Refusal :=
  .next (s.link.awaitKey .getc)

/-- TRAP OUT, R173. -/
def execTrapOut (s : State) : Host.Outcome State Fault Refusal :=
  .next (s.link.consoleOut [lowByte (s.link.reg 0)])

/-- TRAP PUTS, R174. -/
def execTrapPuts (s : State) : Host.Outcome State Fault Refusal :=
  s.link.writeString putsBytes

/-- TRAP IN, R175 and R182: the prompt comes before the wait. -/
def execTrapIn (s : State) : Host.Outcome State Fault Refusal :=
  .next ((s.link.consoleOut s.cfg.inPrompt).awaitKey .inKey)

/-- TRAP PUTSP, R176. -/
def execTrapPutsp (s : State) : Host.Outcome State Fault Refusal :=
  s.link.writeString putspBytes

/-- TRAP HALT, R177. -/
def execTrapHalt (s : State) : Host.Outcome State Fault Refusal :=
  .next ((s.link.consoleOut s.cfg.haltNotice).setRun .halted)

/-- TRAP with an unrecognized vector, R178: `R7` is written, then the fatal error is raised. -/
def execTrapUnknown (ignored : BitVec 4) (trapvect8 : BitVec 8) (s : State) : Host.Outcome State Fault Refusal :=
  .next (s.link.raiseFatal .unknownTrapVector (encode (.trapUnknown ignored trapvect8)))

end Sys2Proof.Machine
end

