-- ==== Sys2Proof/Machine/HostInterface.lean ====
section
/-! DEFINITION. What the outside does to the core and sees of it: key arrival, reset, image loading, inspection, exit
status (spec/20_memory.md R59, R65, R73; spec/60_exceptions.md R204, R219; spec/70_reset_and_hazards.md R230, R245 to R249). -/

namespace Sys2Proof.Machine

/-! ### Keys -/

/-- A key arrives: the collaborator appends one byte to `KBQ` (R59). It is a step of the collaborator, not of the core. -/
def State.keyArrives (s : State) (key : Byte) : State := { s with kbq := s.kbq ++ [key] }

/-- The keys of a list arrive, one after the other. -/
def State.keysArrive (s : State) (keys : List Byte) : State :=
  match keys with
  | [] => s
  | key :: rest => State.keysArrive (s.keyArrives key) rest

/-- The arrivals that the schedule puts before this step happen, and that slot of the schedule is used up (log entry 7). -/
def State.deliverKeys (s : State) : State :=
  match s.arrivals with
  | [] => s
  | keys :: later => { s.keysArrive keys with arrivals := later }

/-- One step of a core that waits for a key (R182): with a key pending, phase 2; with none, nothing happens, and if the
schedule holds no further slot no step is ever enabled again (U16). -/
def resumeWait (w : Wait) (s : State) : Host.Outcome State Fault Refusal :=
  if s.keyPending then .next (s.completeKeyWait w)
  else if s.arrivals.isEmpty then .fault .keyNeverArrives
  else .next s

/-! ### Reset and image loading -/

/-- Reset, an action of the host in any state, with the reset input `START_PC` (R230 to R232). It leaves the host's own
state alone: `KBQ` and the keys still to come (R41), and the model's count of draws. -/
def State.hostReset (s : State) (startPc : Word) : State :=
  { State.resetWith { s.cfg with startPc := startPc } with kbq := s.kbq, arrivals := s.arrivals, draws := s.draws }

/-- `MemWrite(origin +_16 i, 1, words[i])` for each word in turn (R73). -/
def State.loadWords (s : State) (origin : Word) (words : List Word) : State :=
  match words with
  | [] => s
  | w :: rest => State.loadWords (s.memWrite origin w) (origin + 1) rest

/-- `load_image(origin, words)`, R73: an image that would run past `0xFFFF` is refused (U5). -/
def loadImage (origin : Word) (words : List Word) (s : State) : Host.Outcome State Fault Refusal :=
  if origin.toNat + words.length ≤ 65536 then .next (s.loadWords origin words) else .refused .imageTooLong

/-- The words of a big-endian byte sequence, R65: the pair `b0 b1` is `b0 ++ b1`. `none` for an odd number of bytes. -/
def bigEndianWords (bytes : List Byte) : Option (List Word) :=
  match bytes with
  | [] => some []
  | [_] => none
  | b0 :: b1 :: rest => (bigEndianWords rest).map fun ws => (b0 ++ b1) :: ws

/-- The program image format, R65: the first word is the origin, the others are loaded from it upward. -/
def parseImage (bytes : List Byte) : Option (Word × List Word) :=
  match bigEndianWords bytes with
  | some (origin :: words) => some (origin, words)
  | _ => none

/-! ### Inspection and status -/

/-- Inspection of one cell by the host, R219: it takes no key, whatever the address. With no key pending KBDR has
nothing to report. -/
def State.inspect (s : State) (a : Word) : Option Word :=
  if a = s.cfg.kbsrAddr then some s.kbsrValue
  else if a = s.cfg.kbdrAddr then s.kbq.head?.map zext8
  else some (s.cell a)

/-- The cause codes of R204. -/
def FaultKind.code : FaultKind → Nat
  | .illegalOpcode => 1
  | .unknownTrapVector => 2

/-- The status of an ended run, R249: 0 iff it ended normally, else the fault's code; `none` while it has not ended. -/
def State.exitStatus (s : State) : Option Nat :=
  match s.run, s.fault with
  | .running, _ => none
  | .halted, none => some 0
  | .halted, some f => some f.kind.code

end Sys2Proof.Machine
end

