-- ==== Sys2Proof/Machine/Step.lean ====
section
/-! DEFINITION. The step (spec/70_reset_and_hazards.md R240) and where a fetched word stands. -/

namespace Sys2Proof.Machine

/-- One step: nothing in HALTED (R242); else the keys scheduled before it arrive (R59), and then a waiting core resumes
or goes on waiting (R182), and any other core fetches, increments PC, decodes and executes (R240). -/
def step (s : State) : Host.Outcome State Fault Refusal :=
  match s.run with
  | .halted => .fault .coreHalted
  | .running =>
    match s.deliverKeys.wait with
    | .none => exec (decode s.deliverKeys.fetch.1) s.deliverKeys.fetch.2
    | .getc => resumeWait .getc s.deliverKeys
    | .inKey => resumeWait .inKey s.deliverKeys

/-- `s` with a word stored in the cell that `step` fetches next, the core running and not waiting. It stands for the load
of a program from outside (log entry 10); PC must not hold a device address, where no cell can be reached (R36). -/
def State.withFetchWord (s : State) (nbits w : Nat) : State :=
  { s with mem := s.mem.write s.pc.toNat (BitVec.ofNat 16 (w % 2 ^ nbits)), run := .running, wait := .none }

end Sys2Proof.Machine
end

