-- ==== Sys2Proof/Safety.lean ====
section
/-! DEFINITION. What counts as a good state and as the end of a run, and the terms the claims are written in. -/

namespace Sys2Proof

/-! ### Classes of instructions -/

/-- The seven flag-setting instructions of R30 (nine constructors, since ADD and AND have two forms each). -/
def Instr.setsCond : Instr → Bool
  | .addReg _ _ _ | .addImm _ _ _ | .andReg _ _ _ | .andImm _ _ _ | .not _ _ => true
  | .ld _ _ | .ldi _ _ | .ldr _ _ _ | .lea _ _ => true
  | .br _ _ _ _ | .jmp _ | .jsr _ | .jsrr _ | .st _ _ | .sti _ _ | .str _ _ _ => false
  | .trapGetc | .trapOut | .trapPuts | .trapIn | .trapPutsp | .trapHalt | .trapUnknown _ _ => false
  | .rti _ | .res _ => false

/-- The instructions that raise a fatal error (R200 to R202). -/
def Instr.raisesFatal : Instr → Bool
  | .trapUnknown _ _ | .rti _ | .res _ => true
  | .addReg _ _ _ | .addImm _ _ _ | .andReg _ _ _ | .andImm _ _ _ | .not _ _ => false
  | .ld _ _ | .ldi _ _ | .ldr _ _ _ | .lea _ _ => false
  | .br _ _ _ _ | .jmp _ | .jsr _ | .jsrr _ | .st _ _ | .sti _ _ | .str _ _ _ => false
  | .trapGetc | .trapOut | .trapPuts | .trapIn | .trapPutsp | .trapHalt => false

/-- The instructions that write memory (R74). -/
def Instr.stores : Instr → Bool
  | .st _ _ | .sti _ _ | .str _ _ _ => true
  | .addReg _ _ _ | .addImm _ _ _ | .andReg _ _ _ | .andImm _ _ _ | .not _ _ => false
  | .ld _ _ | .ldi _ _ | .ldr _ _ _ | .lea _ _ | .br _ _ _ _ | .jmp _ | .jsr _ | .jsrr _ => false
  | .trapGetc | .trapOut | .trapPuts | .trapIn | .trapPutsp | .trapHalt | .trapUnknown _ _ => false
  | .rti _ | .res _ => false

/-- The TRAP instructions (R170). -/
def Instr.isTrap : Instr → Bool
  | .trapGetc | .trapOut | .trapPuts | .trapIn | .trapPutsp | .trapHalt | .trapUnknown _ _ => true
  | .addReg _ _ _ | .addImm _ _ _ | .andReg _ _ _ | .andImm _ _ _ | .not _ _ => false
  | .ld _ _ | .ldi _ _ | .ldr _ _ _ | .lea _ _ | .br _ _ _ _ | .jmp _ | .jsr _ | .jsrr _ => false
  | .st _ _ | .sti _ _ | .str _ _ _ | .rti _ | .res _ => false

/-- R23, the column "reads": the general registers whose old value an instruction uses. -/
def Instr.readsRegs : Instr → List Reg
  | .addReg _ sr1 sr2 => [sr1, sr2]
  | .addImm _ sr1 _ => [sr1]
  | .andReg _ sr1 sr2 => [sr1, sr2]
  | .andImm _ sr1 _ => [sr1]
  | .not _ sr => [sr]
  | .br _ _ _ _ => []
  | .jmp baseR => [baseR]
  | .jsr _ => []
  | .jsrr baseR => [baseR]
  | .ld _ _ => []
  | .ldi _ _ => []
  | .ldr _ baseR _ => [baseR]
  | .lea _ _ => []
  | .st sr _ => [sr]
  | .sti sr _ => [sr]
  | .str sr baseR _ => [sr, baseR]
  | .trapGetc => []
  | .trapOut => [0]
  | .trapPuts => [0]
  | .trapIn => []
  | .trapPutsp => [0]
  | .trapHalt => []
  | .trapUnknown _ _ => []
  | .rti _ => []
  | .res _ => []

/-- R23, the column "writes": the general registers an instruction may write. -/
def Instr.writesRegs : Instr → List Reg
  | .addReg dr _ _ => [dr]
  | .addImm dr _ _ => [dr]
  | .andReg dr _ _ => [dr]
  | .andImm dr _ _ => [dr]
  | .not dr _ => [dr]
  | .br _ _ _ _ => []
  | .jmp _ => []
  | .jsr _ => [7]
  | .jsrr _ => [7]
  | .ld dr _ => [dr]
  | .ldi dr _ => [dr]
  | .ldr dr _ _ => [dr]
  | .lea dr _ => [dr]
  | .st _ _ => []
  | .sti _ _ => []
  | .str _ _ _ => []
  | .trapGetc => [7, 0]
  | .trapOut => [7]
  | .trapPuts => [7]
  | .trapIn => [7, 0]
  | .trapPutsp => [7]
  | .trapHalt => [7]
  | .trapUnknown _ _ => [7]
  | .rti _ => []
  | .res _ => []

end Sys2Proof

namespace Sys2Proof.Machine

/-! ### The end of a run (spec/70_reset_and_hazards.md R251) -/

/-- A run has ended normally. -/
def State.endedNormally (s : State) : Prop := s.run = .halted ∧ s.fault = none

/-- A run has ended in a fault. -/
def State.endedInFault (s : State) : Prop := s.run = .halted ∧ s.fault ≠ none

/-- The safety predicate of R203: no fatal error has been recorded. -/
def State.safe (s : State) : Prop := s.fault = none

/-- The core waits for a key and none is pending (R182, R214). -/
def State.blocked (s : State) : Prop := s.run = .running ∧ s.wait ≠ .none ∧ s.kbq = []

/-! ### Frames -/

/-- Every register outside `rs` holds what it held. -/
def regsKeptBut (rs : List Reg) (s t : State) : Prop := ∀ r : Reg, r ∉ rs → t.reg r = s.reg r

/-- Every cell of memory reads as before. -/
def memoryKept (s t : State) : Prop := ∀ a : Word, t.cell a = s.cell a

/-- The control state is as before: RUN, FAULT and WAIT. -/
def controlKept (s t : State) : Prop := t.run = s.run ∧ t.fault = s.fault ∧ t.wait = s.wait

/-- The run's parameters and the keys still to come are as before. -/
def hostKept (s t : State) : Prop := t.cfg = s.cfg ∧ t.arrivals = s.arrivals

/-- No key is taken and no unspecified word is drawn. -/
def keyboardKept (s t : State) : Prop := t.kbq = s.kbq ∧ t.draws = s.draws

/-- All that is not a register, PC, COND or memory is as before. -/
def devicesKept (s t : State) : Prop := controlKept s t ∧ hostKept s t ∧ keyboardKept s t ∧ t.out = s.out

/-- All that is not a register, PC or COND is as before. -/
def restKept (s t : State) : Prop := memoryKept s t ∧ devicesKept s t

/-- `c` is the condition that R29 gives the word `v`, read off its value as a number. -/
def condReflects (c : Cond) (v : Word) : Prop :=
  (c = .negative ↔ 32768 ≤ v.toNat) ∧ (c = .zero ↔ v.toNat = 0) ∧ (c = .positive ↔ 0 < v.toNat ∧ v.toNat < 32768)

/-! ### Invariants -/

/-- What every state of a run keeps. -/
structure State.Inv (s : State) : Prop where
  /-- Memory is in its canonical form. -/
  memory   : s.mem.wf = true
  /-- No cell is stored behind a device address: such a cell "cannot be reached by any access" (R36). -/
  devices  : ∀ a : Word, s.isDevice a = true → s.cell a = 0
  /-- The two device addresses are distinct (R8). -/
  distinct : s.cfg.wf
  /-- A recorded fault means a halted core (R203). -/
  faulted  : s.fault ≠ none → s.run = .halted
  /-- A waiting core is a running core (R182, R220). -/
  waiting  : s.wait ≠ .none → s.run = .running

/-- The fault record says what happened: the word it holds is one that raises its kind of error, PC is the address after
the one recorded, and an unknown TRAP has written `R7` (R33, R201, R202, R209). -/
def State.faultRecordTrue (s : State) : Prop :=
  ∀ f, s.fault = some f → s.run = .halted ∧ s.pc = f.addr + 1 ∧
    match f.kind with
    | .illegalOpcode => opcodeField f.word = 0x8 ∨ opcodeField f.word = 0xD
    | .unknownTrapVector =>
      opcodeField f.word = 0xF ∧ ¬ (0x20 ≤ (trapvectField f.word).toNat ∧ (trapvectField f.word).toNat ≤ 0x25) ∧ s.reg 7 = s.pc

/-! ### The loop of PUTS and PUTSP as the spec writes it (spec/43_trap.md R174, R176) -/

/-- `WalkEnds chars a s t`: started at address `a` in state `s`, the loop reaches a zero cell, and leaves state `t`. -/
inductive WalkEnds (chars : Word → List Byte) : Word → State → State → Prop where
  /-- `if c = 0x0000 then exit loop`. -/
  | stop (a : Word) (s : State) (h : (s.memRead a).1 = 0) : WalkEnds chars a s (s.memRead a).2
  /-- Write the cell's characters, `a <- a +_16 1`, go round. -/
  | more (a : Word) (s t : State) (h : (s.memRead a).1 ≠ 0)
      (rest : WalkEnds chars (a + 1) ((s.memRead a).2.consoleOut (chars (s.memRead a).1)) t) : WalkEnds chars a s t

end Sys2Proof.Machine
end

