-- ==== Sys2Proof/Certificates/Slice0/Obligations.lean ====
section
/-! DEFINITION. The statements for the provers. In those about one instruction `s.pc` is the PC after the fetch increment
(spec/10_state.md R24), `regField w lo` is the 3-bit field of `w` from bit `lo`, and `w &&& mask = match` is the row's test of
spec/opcode_table.json. -/

open Sys2Proof Sys2Proof.Machine

/-! ### Encoding -/

/-- Words written out from the encodings of spec/30_encoding.md (R93 to R104), one a format; the values are those of
spec/95_test_vectors.md. -/
def Obligations.SampleWordsDecode : Prop :=
  decode 0x1042#16 = .addReg 0 1 2 ∧ decode 0x107F#16 = .addImm 0 1 0x1F ∧ decode 0x927F#16 = .not 1 1 ∧
  decode 0x07FE#16 = .br false true true 0x1FE ∧ decode 0xC1C0#16 = .jmp 7 ∧ decode 0x4C00#16 = .jsr 0x400 ∧
  decode 0x4080#16 = .jsrr 2 ∧ decode 0xA401#16 = .ldi 2 1 ∧ decode 0x607F#16 = .ldr 0 1 0x3F ∧
  decode 0xFF25#16 = .trapHalt ∧ decode 0xF026#16 = .trapUnknown 0 0x26 ∧ decode 0xDABC#16 = .res 0xABC

/-- R10, R92, R105: each field is the bits of the word that the spec names, as an unsigned integer. -/
def Obligations.FieldsAreTheNamedBits : Prop :=
  ∀ w : Word,
    (opcodeField w).toNat = w.toNat / 4096 ∧
    (regField w 9).val = w.toNat / 512 % 8 ∧
    (regField w 6).val = w.toNat / 64 % 8 ∧
    (regField w 0).val = w.toNat % 8 ∧
    (imm5Field w).toNat = w.toNat % 32 ∧
    (offset6Field w).toNat = w.toNat % 64 ∧
    (offset9Field w).toNat = w.toNat % 512 ∧
    (offset11Field w).toNat = w.toNat % 2048 ∧
    (trapvectField w).toNat = w.toNat % 256

/-- R13: sign extension of a field whose top bit is 1 adds `65536 − 2^N`, and otherwise leaves the value, for the four
widths it is used with; `zext_8` leaves the value. -/
def Obligations.SignExtensionOfFields : Prop :=
  (∀ f : BitVec 5, (sext f).toNat = if f.toNat < 16 then f.toNat else f.toNat + (65536 - 32)) ∧
  (∀ f : BitVec 6, (sext f).toNat = if f.toNat < 32 then f.toNat else f.toNat + (65536 - 64)) ∧
  (∀ f : BitVec 9, (sext f).toNat = if f.toNat < 256 then f.toNat else f.toNat + (65536 - 512)) ∧
  (∀ f : BitVec 11, (sext f).toNat = if f.toNat < 1024 then f.toNat else f.toNat + (65536 - 2048)) ∧
  (∀ b : Byte, (zext8 b).toNat = b.toNat)

/-- Decoding an encoded well-formed instruction gives it back: no bit of an encoding is dropped. -/
def Obligations.DecodeEncodeAgree : Prop :=
  ∀ i : Instr, i.wf = true → decode (encode i) = i

/-- R110: every word decodes to a well-formed instruction whose table row the word matches, and to no other row: any row
that the word matches, TRAP.unknown apart, is the row of the instruction decoded. -/
def Obligations.EveryWordDecodesToItsOneRow : Prop :=
  ∀ w : Word,
    (decode w).wf = true ∧
    w &&& (decode w).matchMask.2 = (decode w).matchMask.1 ∧
    ∀ j : Instr, j.wf = true → w &&& j.matchMask.2 = j.matchMask.1 → j.matchMask ≠ (0xF000#16, 0xF000#16) →
      j.matchMask = (decode w).matchMask

/-- R106 (decision D13 of the spec; log entry 13): words that agree outside their row's ignored bits decode to the same
instruction; in the three fatal rows, where FAULT records the word, they do the same but for the word recorded. -/
def Obligations.IgnoredBitsChangeNothing : Prop :=
  ∀ w w' : Word, (w ^^^ w') &&& ~~~ (decode w).ignoredBits = 0 →
    ((decode w).raisesFatal = false → decode w' = decode w) ∧
    ((decode w).raisesFatal = true → ∀ s : State, ∃ (kind : FaultKind) (t : State),
      exec (decode w) s = .next { t with fault := some ⟨kind, s.pc - 1, w⟩ } ∧
      exec (decode w') s = .next { t with fault := some ⟨kind, s.pc - 1, w'⟩ })

/-! ### Memory and the device registers -/

/-- R70 (c), R67: on canonical memory a read of an ordinary address gives the value last written there, and a write
leaves every other address alone. -/
def Obligations.ReadReturnsTheLatestWrite : Prop :=
  ∀ (s : State) (a v : Word), s.mem.wf = true → s.isDevice a = false →
    ((s.memWrite a v).memRead a).1 = v ∧
    ∀ b : Word, b ≠ a → s.isDevice b = false → ((s.memWrite a v).memRead b).1 = (s.memRead b).1

/-- R53: a write to a device address changes no state at all; any other write changes that one cell and nothing else. -/
def Obligations.WritesAreStoredOrDropped : Prop :=
  ∀ (s : State) (a v : Word),
    (a = s.cfg.kbsrAddr ∨ a = s.cfg.kbdrAddr → s.memWrite a v = s) ∧
    (a ≠ s.cfg.kbsrAddr → a ≠ s.cfg.kbdrAddr → s.mem.wf = true → (s.memWrite a v).cell a = v) ∧
    (∀ b : Word, b ≠ a → (s.memWrite a v).cell b = s.cell b) ∧
    s.memWrite a v = { s with mem := (s.memWrite a v).mem }

/-- R54: a KBSR read gives exactly `0x8000` with a key pending and exactly `0x0000` with none, changes no state, and so
gives the same again; a key arrival makes it `0x8000`, and only the taking of the last key makes it `0x0000` again. -/
def Obligations.KbsrShowsWhetherAKeyIsPending : Prop :=
  ∀ s : State,
    (s.kbq ≠ [] → s.memRead s.cfg.kbsrAddr = (0x8000#16, s)) ∧
    (s.kbq = [] → s.memRead s.cfg.kbsrAddr = (0x0000#16, s)) ∧
    (∀ key : Byte, ((s.keyArrives key).memRead s.cfg.kbsrAddr).1 = 0x8000#16) ∧
    (∀ a : Word, (s.memRead s.cfg.kbsrAddr).1 = 0x8000#16 → ((s.memRead a).2.memRead s.cfg.kbsrAddr).1 = 0x0000#16 →
      a = s.cfg.kbdrAddr ∧ s.kbq.length = 1)

/-- R52: the three cases of a read. The value of a KBDR read with no key pending is left open. -/
def Obligations.ReadIsInterceptedAtTheTwoDevices : Prop :=
  ∀ (s : State) (a : Word),
    (a = s.cfg.kbsrAddr → (s.memRead a).1 = (if s.kbq = [] then 0x0000#16 else 0x8000#16) ∧ (s.memRead a).2 = s) ∧
    (a ≠ s.cfg.kbsrAddr → a = s.cfg.kbdrAddr → ∀ key rest, s.kbq = key :: rest →
      (s.memRead a).1.toNat = key.toNat ∧ (s.memRead a).1.toNat < 256 ∧ (s.memRead a).2 = { s with kbq := rest }) ∧
    (a ≠ s.cfg.kbsrAddr → a = s.cfg.kbdrAddr → s.kbq = [] → (s.memRead a).2.kbq = [] ∧
      (s.memRead a).2 = { s with draws := (s.memRead a).2.draws }) ∧
    (a ≠ s.cfg.kbsrAddr → a ≠ s.cfg.kbdrAddr → (s.memRead a).1 = s.cell a ∧ (s.memRead a).2 = s)

/-- The canonical form is one: two canonical memories that read alike at every address are the same data. -/
def Obligations.CanonicalMemoriesThatReadAlikeAreEqual : Prop :=
  ∀ m m' : Memory, m.wf = true → m'.wf = true → (∀ a, a < 65536 → m.read a = m'.read a) → m = m'

/-! ### The condition code -/

/-- R29: the three cases of `setcc`, which writes COND and nothing else. -/
def Obligations.SetccFollowsTheSign : Prop :=
  ∀ (s : State) (v : Word),
    condReflects (s.setcc v).cond v ∧ s.setcc v = { s with cond := (s.setcc v).cond }

/-! ### Operate instructions -/

/-- R131 and R132: the two forms of ADD. The sum wraps, and overflow is not signalled. -/
def Obligations.AddBothForms : Prop :=
  (∀ w : Word, w &&& 0xF020 = 0x1000 → decode w = .addReg (regField w 9) (regField w 6) (regField w 0)) ∧
  (∀ w : Word, w &&& 0xF020 = 0x1020 → decode w = .addImm (regField w 9) (regField w 6) (imm5Field w)) ∧
  (∀ (dr sr1 sr2 : Reg) (s : State), ∃ t, exec (.addReg dr sr1 sr2) s = .next t ∧
    (t.reg dr).toNat = ((s.reg sr1).toNat + (s.reg sr2).toNat) % 65536 ∧
    condReflects t.cond (t.reg dr) ∧ t.pc = s.pc ∧ regsKeptBut [dr] s t ∧ restKept s t) ∧
  ∀ (dr sr1 : Reg) (imm5 : BitVec 5) (s : State), ∃ t, exec (.addImm dr sr1 imm5) s = .next t ∧
    (t.reg dr).toNat = ((s.reg sr1).toNat + (sext imm5).toNat) % 65536 ∧
    condReflects t.cond (t.reg dr) ∧ t.pc = s.pc ∧ regsKeptBut [dr] s t ∧ restKept s t

/-- R133 and R134: the two forms of AND, bit by bit; the immediate is sign-extended before the AND. -/
def Obligations.AndBothForms : Prop :=
  (∀ w : Word, w &&& 0xF020 = 0x5000 → decode w = .andReg (regField w 9) (regField w 6) (regField w 0)) ∧
  (∀ w : Word, w &&& 0xF020 = 0x5020 → decode w = .andImm (regField w 9) (regField w 6) (imm5Field w)) ∧
  (∀ (dr sr1 sr2 : Reg) (s : State), ∃ t, exec (.andReg dr sr1 sr2) s = .next t ∧
    (∀ k, (t.reg dr).getLsbD k = ((s.reg sr1).getLsbD k && (s.reg sr2).getLsbD k)) ∧
    condReflects t.cond (t.reg dr) ∧ t.pc = s.pc ∧ regsKeptBut [dr] s t ∧ restKept s t) ∧
  ∀ (dr sr1 : Reg) (imm5 : BitVec 5) (s : State), ∃ t, exec (.andImm dr sr1 imm5) s = .next t ∧
    (∀ k, (t.reg dr).getLsbD k = ((s.reg sr1).getLsbD k && (sext imm5).getLsbD k)) ∧
    condReflects t.cond (t.reg dr) ∧ t.pc = s.pc ∧ regsKeptBut [dr] s t ∧ restKept s t

/-- R135, with "for any register value v, NOT(NOT(v)) == v". -/
def Obligations.NotComplements : Prop :=
  (∀ w : Word, w &&& 0xF000 = 0x9000 → decode w = .not (regField w 9) (regField w 6)) ∧
  (∀ (dr sr : Reg) (s : State), ∃ t, exec (.not dr sr) s = .next t ∧
    (t.reg dr).toNat = 65535 - (s.reg sr).toNat ∧
    condReflects t.cond (t.reg dr) ∧ t.pc = s.pc ∧ regsKeptBut [dr] s t ∧ restKept s t) ∧
  ∀ (r : Reg) (s t u : State), exec (.not r r) s = .next t → exec (.not r r) t = .next u → u.reg r = s.reg r

/-! ### Control transfer -/

/-- R141. -/
def Obligations.BrBranchesOnItsCondition : Prop :=
  (∀ w : Word, w &&& 0xF000 = 0x0000 →
    decode w = .br (w.getLsbD 11) (w.getLsbD 10) (w.getLsbD 9) (offset9Field w)) ∧
  ∀ (n z p : Bool) (offset9 : BitVec 9) (s : State), ∃ t, exec (.br n z p offset9) s = .next t ∧
    ((n = true ∧ s.cond = .negative) ∨ (z = true ∧ s.cond = .zero) ∨ (p = true ∧ s.cond = .positive) →
      t.pc.toNat = (s.pc.toNat + (sext offset9).toNat) % 65536) ∧
    (¬ ((n = true ∧ s.cond = .negative) ∨ (z = true ∧ s.cond = .zero) ∨ (p = true ∧ s.cond = .positive)) →
      t.pc = s.pc) ∧
    t.cond = s.cond ∧ regsKeptBut [] s t ∧ restKept s t

/-- R142. -/
def Obligations.JmpGoesToTheBaseRegister : Prop :=
  (∀ w : Word, w &&& 0xF000 = 0xC000 → decode w = .jmp (regField w 6)) ∧
  ∀ (baseR : Reg) (s : State), ∃ t, exec (.jmp baseR) s = .next t ∧
    t.pc = s.reg baseR ∧ t.cond = s.cond ∧ regsKeptBut [] s t ∧ restKept s t

/-- R143. -/
def Obligations.JsrLinksAndBranches : Prop :=
  (∀ w : Word, w &&& 0xF800 = 0x4800 → decode w = .jsr (offset11Field w)) ∧
  ∀ (offset11 : BitVec 11) (s : State), ∃ t, exec (.jsr offset11) s = .next t ∧
    t.reg 7 = s.pc ∧ t.pc.toNat = (s.pc.toNat + (sext offset11).toNat) % 65536 ∧
    t.cond = s.cond ∧ regsKeptBut [7] s t ∧ restKept s t

/-- R144. The clause for `BaseR = 7` is the spec's decision D15 (log entry 12). -/
def Obligations.JsrrLinksAndJumps : Prop :=
  (∀ w : Word, w &&& 0xF800 = 0x4000 → decode w = .jsrr (regField w 6)) ∧
  ∀ (baseR : Reg) (s : State), ∃ t, exec (.jsrr baseR) s = .next t ∧
    t.reg 7 = s.pc ∧ (baseR ≠ 7 → t.pc = s.reg baseR) ∧ (baseR = 7 → t.pc = s.pc) ∧
    t.cond = s.cond ∧ regsKeptBut [7] s t ∧ restKept s t

/-! ### Loads, stores and LEA -/

/-- R151. -/
def Obligations.LdLoadsPcRelative : Prop :=
  (∀ w : Word, w &&& 0xF000 = 0x2000 → decode w = .ld (regField w 9) (offset9Field w)) ∧
  ∀ (dr : Reg) (offset9 : BitVec 9) (s : State),
    let read := s.memRead (s.pc + sext offset9)
    ∃ t, exec (.ld dr offset9) s = .next t ∧
      t.reg dr = read.1 ∧ condReflects t.cond read.1 ∧ t.pc = s.pc ∧ regsKeptBut [dr] s t ∧
      memoryKept s t ∧ controlKept s t ∧ hostKept s t ∧ t.out = s.out ∧ keyboardKept read.2 t

/-- R152: the pointer is read first, and the second value read decides COND. -/
def Obligations.LdiLoadsThroughThePointer : Prop :=
  (∀ w : Word, w &&& 0xF000 = 0xA000 → decode w = .ldi (regField w 9) (offset9Field w)) ∧
  ∀ (dr : Reg) (offset9 : BitVec 9) (s : State),
    let pointer := s.memRead (s.pc + sext offset9)
    let read := pointer.2.memRead pointer.1
    ∃ t, exec (.ldi dr offset9) s = .next t ∧
      t.reg dr = read.1 ∧ condReflects t.cond read.1 ∧ t.pc = s.pc ∧ regsKeptBut [dr] s t ∧
      memoryKept s t ∧ controlKept s t ∧ hostKept s t ∧ t.out = s.out ∧ keyboardKept read.2 t

/-- R153: the address is computed from the old value of `BaseR`, also when `DR = BaseR`. -/
def Obligations.LdrLoadsBasePlusOffset : Prop :=
  (∀ w : Word, w &&& 0xF000 = 0x6000 → decode w = .ldr (regField w 9) (regField w 6) (offset6Field w)) ∧
  ∀ (dr baseR : Reg) (offset6 : BitVec 6) (s : State),
    let read := s.memRead (s.reg baseR + sext offset6)
    ∃ t, exec (.ldr dr baseR offset6) s = .next t ∧
      t.reg dr = read.1 ∧ condReflects t.cond read.1 ∧ t.pc = s.pc ∧ regsKeptBut [dr] s t ∧
      memoryKept s t ∧ controlKept s t ∧ hostKept s t ∧ t.out = s.out ∧ keyboardKept read.2 t

/-- R154. -/
def Obligations.LeaLoadsTheAddress : Prop :=
  (∀ w : Word, w &&& 0xF000 = 0xE000 → decode w = .lea (regField w 9) (offset9Field w)) ∧
  ∀ (dr : Reg) (offset9 : BitVec 9) (s : State), ∃ t, exec (.lea dr offset9) s = .next t ∧
    (t.reg dr).toNat = (s.pc.toNat + (sext offset9).toNat) % 65536 ∧
    condReflects t.cond (t.reg dr) ∧ t.pc = s.pc ∧ regsKeptBut [dr] s t ∧ restKept s t

/-- R155: the word goes to `ea` alone, or nowhere if `ea` is a device address; the flags and registers stay. -/
def Obligations.StStoresPcRelative : Prop :=
  (∀ w : Word, w &&& 0xF000 = 0x3000 → decode w = .st (regField w 9) (offset9Field w)) ∧
  ∀ (sr : Reg) (offset9 : BitVec 9) (s : State),
    let ea := s.pc + sext offset9
    ∃ t, exec (.st sr offset9) s = .next t ∧
      (s.mem.wf = true → s.isDevice ea = false → t.cell ea = s.reg sr) ∧ (s.isDevice ea = true → memoryKept s t) ∧
      (∀ a : Word, a ≠ ea → t.cell a = s.cell a) ∧
      t.pc = s.pc ∧ t.cond = s.cond ∧ regsKeptBut [] s t ∧ devicesKept s t

/-- R156: the pointer read may take a key; the word goes to the pointer alone, or nowhere if that is a device address. -/
def Obligations.StiStoresThroughThePointer : Prop :=
  (∀ w : Word, w &&& 0xF000 = 0xB000 → decode w = .sti (regField w 9) (offset9Field w)) ∧
  ∀ (sr : Reg) (offset9 : BitVec 9) (s : State),
    let pointer := s.memRead (s.pc + sext offset9)
    ∃ t, exec (.sti sr offset9) s = .next t ∧
      (s.mem.wf = true → s.isDevice pointer.1 = false → t.cell pointer.1 = s.reg sr) ∧
      (s.isDevice pointer.1 = true → memoryKept s t) ∧
      (∀ a : Word, a ≠ pointer.1 → t.cell a = s.cell a) ∧
      t.pc = s.pc ∧ t.cond = s.cond ∧ regsKeptBut [] s t ∧
      controlKept s t ∧ hostKept s t ∧ t.out = s.out ∧ keyboardKept pointer.2 t

/-- R157. -/
def Obligations.StrStoresBasePlusOffset : Prop :=
  (∀ w : Word, w &&& 0xF000 = 0x7000 → decode w = .str (regField w 9) (regField w 6) (offset6Field w)) ∧
  ∀ (sr baseR : Reg) (offset6 : BitVec 6) (s : State),
    let ea := s.reg baseR + sext offset6
    ∃ t, exec (.str sr baseR offset6) s = .next t ∧
      (s.mem.wf = true → s.isDevice ea = false → t.cell ea = s.reg sr) ∧ (s.isDevice ea = true → memoryKept s t) ∧
      (∀ a : Word, a ≠ ea → t.cell a = s.cell a) ∧
      t.pc = s.pc ∧ t.cond = s.cond ∧ regsKeptBut [] s t ∧ devicesKept s t

/-! ### TRAP -/

/-- R172 with the two phases of R182: with a key pending the key is taken, unechoed, into `R0`; with none the core waits. -/
def Obligations.GetcTakesAKeyOrWaits : Prop :=
  (∀ w : Word, w &&& 0xF0FF = 0xF020 → decode w = .trapGetc) ∧
  ∀ s : State, s.cfg.wf →
    (∀ key rest, s.kbq = key :: rest → ∃ t, exec .trapGetc s = .next t ∧
      t.reg 7 = s.pc ∧ (t.reg 0).toNat = key.toNat ∧ t.kbq = rest ∧ t.wait = .none ∧ t.draws = s.draws ∧
      regsKeptBut [7, 0] s t ∧ t.pc = s.pc ∧ t.cond = s.cond ∧ t.out = s.out ∧ memoryKept s t ∧
      t.run = s.run ∧ t.fault = s.fault ∧ hostKept s t) ∧
    (s.kbq = [] → ∃ t, exec .trapGetc s = .next t ∧
      t.reg 7 = s.pc ∧ t.wait = .getc ∧ keyboardKept s t ∧
      regsKeptBut [7] s t ∧ t.pc = s.pc ∧ t.cond = s.cond ∧ t.out = s.out ∧ memoryKept s t ∧
      t.run = s.run ∧ t.fault = s.fault ∧ hostKept s t)

/-- R173. -/
def Obligations.OutWritesTheLowByte : Prop :=
  (∀ w : Word, w &&& 0xF0FF = 0xF021 → decode w = .trapOut) ∧
  ∀ s : State, ∃ t, exec .trapOut s = .next t ∧
    t.reg 7 = s.pc ∧ (∃ b : Byte, b.toNat = (s.reg 0).toNat % 256 ∧ t.out = s.out ++ [b]) ∧
    regsKeptBut [7] s t ∧ t.pc = s.pc ∧ t.cond = s.cond ∧ memoryKept s t ∧ controlKept s t ∧ hostKept s t ∧
    keyboardKept s t

/-- R174 against the loop as the spec writes it: TRAP PUTS always completes, in the state in which the loop ends. The
byte written is the spec's decision D17, the device interception D22; that the loop always ends is log entry 8. -/
def Obligations.PutsRunsItsLoopToTheEnd : Prop :=
  (∀ w : Word, w &&& 0xF0FF = 0xF022 → decode w = .trapPuts) ∧
  ∀ s : State, s.cfg.wf → ∃ t, exec .trapPuts s = .next t ∧
    (∀ u, WalkEnds (fun c => [c.setWidth 8]) (s.reg 0) (s.setReg 7 s.pc) u ↔ u = t) ∧
    t.reg 7 = s.pc ∧ regsKeptBut [7] s t ∧ t.pc = s.pc ∧ t.cond = s.cond ∧ memoryKept s t ∧ controlKept s t ∧
    hostKept s t

/-- R175 with the two phases of R182: the prompt first, the echo after the key. -/
def Obligations.InPromptsAndEchoes : Prop :=
  (∀ w : Word, w &&& 0xF0FF = 0xF023 → decode w = .trapIn) ∧
  ∀ s : State, s.cfg.wf →
    (∀ key rest, s.kbq = key :: rest → ∃ t, exec .trapIn s = .next t ∧
      t.reg 7 = s.pc ∧ (t.reg 0).toNat = key.toNat ∧ t.kbq = rest ∧ t.out = s.out ++ s.cfg.inPrompt ++ [key] ∧
      t.wait = .none ∧ t.draws = s.draws ∧ regsKeptBut [7, 0] s t ∧ t.pc = s.pc ∧ t.cond = s.cond ∧ memoryKept s t ∧
      t.run = s.run ∧ t.fault = s.fault ∧ hostKept s t) ∧
    (s.kbq = [] → ∃ t, exec .trapIn s = .next t ∧
      t.reg 7 = s.pc ∧ t.wait = .inKey ∧ t.out = s.out ++ s.cfg.inPrompt ∧ keyboardKept s t ∧
      regsKeptBut [7] s t ∧ t.pc = s.pc ∧ t.cond = s.cond ∧ memoryKept s t ∧
      t.run = s.run ∧ t.fault = s.fault ∧ hostKept s t)

/-- R176 against the loop as the spec writes it (decisions D17 and D22; log entry 8), as PUTS. -/
def Obligations.PutspRunsItsLoopToTheEnd : Prop :=
  (∀ w : Word, w &&& 0xF0FF = 0xF024 → decode w = .trapPutsp) ∧
  ∀ s : State, s.cfg.wf → ∃ t, exec .trapPutsp s = .next t ∧
    (∀ u, WalkEnds (fun c => if c.toNat / 256 = 0 then [c.setWidth 8] else [c.setWidth 8, (c >>> 8).setWidth 8])
      (s.reg 0) (s.setReg 7 s.pc) u ↔ u = t) ∧
    t.reg 7 = s.pc ∧ regsKeptBut [7] s t ∧ t.pc = s.pc ∧ t.cond = s.cond ∧ memoryKept s t ∧ controlKept s t ∧
    hostKept s t

/-- R177: the notice is printed and the core stops; FAULT stays as it is, the exit status is 0 if it is none, and no
further instruction executes. -/
def Obligations.HaltStopsTheCore : Prop :=
  (∀ w : Word, w &&& 0xF0FF = 0xF025 → decode w = .trapHalt) ∧
  ∀ s : State, ∃ t, exec .trapHalt s = .next t ∧
    t.reg 7 = s.pc ∧ t.out = s.out ++ s.cfg.haltNotice ∧ t.run = .halted ∧ t.fault = s.fault ∧
    regsKeptBut [7] s t ∧ t.pc = s.pc ∧ t.cond = s.cond ∧ memoryKept s t ∧ t.wait = s.wait ∧ hostKept s t ∧
    keyboardKept s t ∧
    (s.fault = none → t.exitStatus = some 0) ∧ step t = .fault .coreHalted

/-- R178. That `R7` is written before the fault is raised is the spec's decision D18, the record D8 (log entry 11). -/
def Obligations.UnknownTrapIsFatal : Prop :=
  (∀ w : Word, w &&& 0xF000 = 0xF000 → (w.toNat % 256 < 0x20 ∨ 0x25 < w.toNat % 256) →
    decode w = .trapUnknown (w.extractLsb' 8 4) (trapvectField w) ∧ encode (decode w) = w) ∧
  ∀ (ignored : BitVec 4) (vect : BitVec 8) (s : State), ∃ t, exec (.trapUnknown ignored vect) s = .next t ∧
    t.fault = some ⟨.unknownTrapVector, s.pc - 1, encode (.trapUnknown ignored vect)⟩ ∧ t.run = .halted ∧
    t.reg 7 = s.pc ∧ regsKeptBut [7] s t ∧ t.pc = s.pc ∧ t.cond = s.cond ∧ memoryKept s t ∧ t.wait = s.wait ∧
    hostKept s t ∧ keyboardKept s t ∧ t.out = s.out

/-! ### The reserved opcodes -/

/-- R179 and R180: RTI and RES raise IllegalOpcode, and change PC, RUN and FAULT only (PC by the fetch). The record holds
the fetched word whole, whatever its ignored bits. -/
def Obligations.ReservedOpcodesAreFatal : Prop :=
  (∀ w : Word, w &&& 0xF000 = 0x8000 → decode w = .rti (w.extractLsb' 0 12) ∧ encode (decode w) = w) ∧
  (∀ w : Word, w &&& 0xF000 = 0xD000 → decode w = .res (w.extractLsb' 0 12) ∧ encode (decode w) = w) ∧
  (∀ (ignored : BitVec 12) (s : State), ∃ t, exec (.rti ignored) s = .next t ∧
    t.fault = some ⟨.illegalOpcode, s.pc - 1, encode (.rti ignored)⟩ ∧ t.run = .halted ∧
    regsKeptBut [] s t ∧ t.pc = s.pc ∧ t.cond = s.cond ∧ memoryKept s t ∧ t.wait = s.wait ∧
    hostKept s t ∧ keyboardKept s t ∧ t.out = s.out) ∧
  ∀ (ignored : BitVec 12) (s : State), ∃ t, exec (.res ignored) s = .next t ∧
    t.fault = some ⟨.illegalOpcode, s.pc - 1, encode (.res ignored)⟩ ∧ t.run = .halted ∧
    regsKeptBut [] s t ∧ t.pc = s.pc ∧ t.cond = s.cond ∧ memoryKept s t ∧ t.wait = s.wait ∧
    hostKept s t ∧ keyboardKept s t ∧ t.out = s.out

/-! ### Rules of the whole machine, over every instruction -/

/-- R30: COND is written by exactly the seven instructions ADD, AND, NOT, LD, LDI, LDR, LEA, from the value they put in
their destination register, and it is read by BR alone. -/
def Obligations.CondIsWrittenBySevenAndReadByBr : Prop :=
  ∀ (i : Instr) (s t : State), exec i s = .next t →
    (i.setsCond = false → t.cond = s.cond) ∧
    (i.setsCond = true → ∃ dr, i.writesRegs = [dr] ∧ condReflects t.cond (t.reg dr)) ∧
    ((∀ n z p off, i ≠ .br n z p off) → ∀ c, ∃ t', exec i { s with cond := c } = .next t' ∧
      { t' with cond := t.cond } = t)

/-- R23: an instruction writes no general register but those of its row's column "writes", and the old value of a
register outside its column "reads" decides nothing but, at most, that register itself. -/
def Obligations.RegistersReadAndWrittenAreTheTables : Prop :=
  ∀ (i : Instr) (s t : State), exec i s = .next t →
    regsKeptBut i.writesRegs s t ∧
    ∀ (r : Reg) (v : Word), r ∉ i.readsRegs → ∃ t', exec i (s.setReg r v) = .next t' ∧ t'.setReg r 0 = t.setReg r 0

/-- R25: how each instruction leaves PC. That JSRR reads `R7` after it has written it, so that JSRR R7 leaves the
incremented PC, is the spec's decision D15 (log entry 12). -/
def Obligations.PcAfterEachInstruction : Prop :=
  ∀ (i : Instr) (s t : State), exec i s = .next t →
    t.pc = match i with
      | .br n z p off =>
        if (n = true ∧ s.cond = .negative) ∨ (z = true ∧ s.cond = .zero) ∨ (p = true ∧ s.cond = .positive)
        then s.pc + sext off else s.pc
      | .jmp baseR => s.reg baseR
      | .jsr off => s.pc + sext off
      | .jsrr baseR => if baseR = 7 then s.pc else s.reg baseR
      | _ => s.pc

/-- R32: the two values of RUN. A step is taken only in RUNNING; HALTED is entered only by TRAP HALT or a fatal error, and
no instruction leaves it; no instruction reads RUN; reset gives RUNNING, from any state. -/
def Obligations.RunIsATwoStateMachine : Prop :=
  State.reset.run = .running ∧
  (∀ (s : State) (startPc : Word), (s.hostReset startPc).run = .running) ∧
  (∀ s t : State, step s = .next t → s.run = .running) ∧
  (∀ s t : State, step s = .next t → t.run = .halted → s.wait = .none ∧
    (decode s.deliverKeys.fetch.1 = .trapHalt ∨ (decode s.deliverKeys.fetch.1).raisesFatal = true)) ∧
  ∀ (i : Instr) (s t : State), exec i s = .next t →
    (t.run = .halted ↔ s.run = .halted ∨ i = .trapHalt ∨ i.raisesFatal = true) ∧
    ∀ r : Run, ∃ t', exec i (s.setRun r) = .next t' ∧ t'.setRun .running = t.setRun .running

/-- R210: a fatal error writes FAULT and RUN and nothing else; a TRAP writes `R7` and then has its routine's effects, does
not redirect PC, writes no memory and keeps COND; and no other instruction touches FAULT. -/
def Obligations.WhatAFatalErrorAndATrapChange : Prop :=
  (∀ (s : State) (kind : FaultKind) (word : Word),
    s.raiseFatal kind word = { s with fault := some ⟨kind, s.pc - 1, word⟩, run := .halted }) ∧
  (∀ (i : Instr) (s t : State), exec i s = .next t → i.isTrap = true →
    t.reg 7 = s.pc ∧ t.pc = s.pc ∧ t.cond = s.cond ∧ memoryKept s t) ∧
  (∀ (i : Instr) (s t : State), exec i s = .next t → i.raisesFatal = false → t.fault = s.fault) ∧
  (∀ (i : Instr) (s : State), i.raisesFatal = true → ∃ t kind, exec i s = .next t ∧
    t.fault = some ⟨kind, s.pc - 1, encode i⟩ ∧ t.run = .halted ∧ memoryKept s t ∧ t.cond = s.cond ∧ t.pc = s.pc ∧
    regsKeptBut i.writesRegs s t)

/-- R74, the writing rows: memory changes only in ST, STI and STR. -/
def Obligations.OnlyStoresChangeMemory : Prop :=
  ∀ (i : Instr) (s t : State), exec i s = .next t → i.stores = false → memoryKept s t ∧ t.mem = s.mem

/-- R39: the core only appends to OUT, and nothing in the core reads it: neither an instruction nor a step. -/
def Obligations.OutIsOnlyAppendedTo : Prop :=
  (∀ (i : Instr) (s t : State), exec i s = .next t → ∃ bs,
    t.out = s.out ++ bs ∧ ∀ o : List Byte, exec i { s with out := o } = .next { t with out := o ++ bs }) ∧
  ∀ s t : State, step s = .next t → ∃ bs,
    t.out = s.out ++ bs ∧ ∀ o : List Byte, step { s with out := o } = .next { t with out := o ++ bs }

/-- R38, R246: an instruction takes keys from the head of KBQ and never adds one; it leaves the parameters of the run and
the keys still to come alone (R245). -/
def Obligations.KeysAreTakenFromTheHeadOnly : Prop :=
  ∀ (i : Instr) (s t : State), exec i s = .next t → (∃ taken, s.kbq = taken ++ t.kbq) ∧ hostKept s t

/-! ### The step -/

/-- R240: a running core that does not wait fetches at PC with MemRead, increments PC, decodes and executes. Around that
the model's step only delivers the keys that the schedule puts before it (log entry 7). -/
def Obligations.StepRunsTheDecodedInstruction : Prop :=
  ∀ s : State, s.run = .running → s.wait = .none →
    let u : State := { s with kbq := s.kbq ++ s.arrivals.headD [], arrivals := s.arrivals.tail }
    step s = exec (decode (u.memRead u.pc).1) ((u.memRead u.pc).2.setPc (u.pc + 1)) ∧
    ∀ i : Instr, u.isDevice u.pc = false → decode (u.cell u.pc) = i → step s = exec i (u.setPc (u.pc + 1))

/-- R77: fetching from a device address. With a key pending KBSR holds RTI, which is fatal, and KBDR a no-op that takes
the key; with none KBSR holds a no-op, and the word at KBDR is unspecified. -/
def Obligations.FetchFromADeviceAddress : Prop :=
  ∀ s : State, s.run = .running → s.wait = .none → s.arrivals = [] → s.cfg.wf →
    (s.pc = s.cfg.kbsrAddr → s.kbq = [] → step s = .next (s.setPc (s.pc + 1))) ∧
    (s.pc = s.cfg.kbsrAddr → s.kbq ≠ [] → ∃ t, step s = .next t ∧ t.pc = s.pc + 1 ∧ t.run = .halted ∧
      t.fault = some ⟨.illegalOpcode, s.pc, 0x8000⟩ ∧ t.kbq = s.kbq) ∧
    (s.pc = s.cfg.kbdrAddr → ∀ key rest, s.kbq = key :: rest →
      step s = .next { s with pc := s.pc + 1, kbq := rest }) ∧
    (s.pc = s.cfg.kbdrAddr → s.kbq = [] → step s =
      exec (decode (s.memRead s.pc).1) { s with pc := s.pc + 1, draws := (s.memRead s.pc).2.draws })

/-- R242, R222, R250: in HALTED no step is enabled and the state is frozen; only the host's reset starts the core again. -/
def Obligations.HaltedIsTerminal : Prop :=
  (∀ s : State, s.run = .halted → step s = .fault .coreHalted) ∧
  (∀ (n : Nat) (s t : State), s.run = .halted → Sys2Proof.core.run n s = .next t → t = s) ∧
  (∀ (s : State) (startPc : Word), (s.hostReset startPc).run = .running ∧ (s.hostReset startPc).fault = none)

/-- R182, phase 2: a waiting core with a key pending takes it in one step. -/
def Obligations.KeyWaitCompletes : Prop :=
  ∀ (s : State) (key : Byte) (rest : List Byte), s.run = .running → s.wait ≠ .none → s.cfg.wf →
    s.kbq ++ s.arrivals.headD [] = key :: rest → ∃ t, step s = .next t ∧
      t.wait = .none ∧ (t.reg 0).toNat = key.toNat ∧ t.kbq = rest ∧
      t.out = s.out ++ (if s.wait = .inKey then [key] else []) ∧
      regsKeptBut [0] s t ∧ t.pc = s.pc ∧ t.cond = s.cond ∧ memoryKept s t ∧ t.run = .running ∧ t.fault = s.fault ∧
      t.cfg = s.cfg ∧ t.arrivals = s.arrivals.tail

/-- R244, R252: the wait ends when the key comes, however many empty slots the schedule has before it (log entry 7). -/
def Obligations.KeyWaitEndsWhenTheKeyComes : Prop :=
  ∀ (n : Nat) (s : State) (key : Byte) (later : List (List Byte)), s.run = .running → s.wait ≠ .none → s.cfg.wf →
    s.kbq = [] → s.arrivals = List.replicate n [] ++ [key] :: later → ∃ t, Sys2Proof.core.run (n + 1) s = .next t ∧
      t.wait = .none ∧ (t.reg 0).toNat = key.toNat ∧ t.kbq = [] ∧ t.pc = s.pc ∧ t.arrivals = later

/-- R182, D9: no program can tell a suspended GETC or IN from one that found its key at once: issue, arrival and
completion give the state that arrival and issue give. -/
def Obligations.SuspensionCannotBeSeen : Prop :=
  ∀ (s u t : State) (key : Byte), s.cfg.wf → s.wait = .none → s.kbq = [] →
    (exec .trapGetc s = .next u → exec .trapGetc (s.keyArrives key) = .next t →
      resumeWait .getc (u.keyArrives key) = .next t) ∧
    (exec .trapIn s = .next u → exec .trapIn (s.keyArrives key) = .next t →
      resumeWait .inKey (u.keyArrives key) = .next t)

/-- R252, R205, R240: no step of a running core that does not wait gets stuck, whatever word it fetches: it has a next
state, so no instruction blocks for good, faults or is refused. That PUTS and PUTSP always end is log entry 8. -/
def Obligations.EveryEnabledStepCompletes : Prop :=
  ∀ s : State, s.run = .running → s.wait = .none → s.cfg.wf → ∃ t, step s = .next t

/-- R182, R214, R242: when a step has no next state. The core is halted, or it waits and no key is there or to come;
while it waits and a key may still come it does nothing (the schedule of keys is the model's, log entry 7). Nothing is
refused, and no string walk goes on for ever (log entry 8). -/
def Obligations.WhenAStepStops : Prop :=
  ∀ s : State, s.cfg.wf →
    (step s = .fault .coreHalted ↔ s.run = .halted) ∧
    (step s = .fault .keyNeverArrives ↔
      s.run = .running ∧ s.wait ≠ .none ∧ s.kbq ++ s.arrivals.headD [] = [] ∧ s.arrivals.tail = []) ∧
    (s.run = .running → s.wait ≠ .none → s.kbq ++ s.arrivals.headD [] = [] → s.arrivals.tail ≠ [] →
      step s = .next { s with arrivals := s.arrivals.tail }) ∧
    step s ≠ .fault .stringNeverEnds ∧ ∀ r, step s ≠ .refused r

/-- The word that the host stores for a fetch is the instruction the next step runs (log entry 10). -/
def Obligations.StoredWordIsFetchedAndRun : Prop :=
  ∀ (s : State) (i : Instr), i.wf = true → s.mem.wf = true → s.isDevice s.pc = false → s.arrivals = [] →
    step (s.withFetchWord 16 (encode i).toNat) = exec i ((s.withFetchWord 16 (encode i).toNat).setPc (s.pc + 1))

/-- R72: fetch is coherent with stores. A word that ST stores in the next instruction's cell is the one fetched next. -/
def Obligations.StoreToTheNextInstructionIsFetched : Prop :=
  ∀ (sr : Reg) (s t : State), s.mem.wf = true → s.isDevice s.pc = false → exec (.st sr 0) s = .next t →
    t.fetch.1 = s.reg sr ∧ t.fetch.2.pc = s.pc + 1

/-! ### Strings -/

/-- R174 and R176 on an ordinary string (decision D17 of the spec). PUTS writes one character per cell, the low byte; PUTSP
the low byte and then the high byte if it is not zero; each up to and excluding the first zero cell. -/
def Obligations.OrdinaryStringsAreWritten : Prop :=
  ∀ (s : State) (str : List Word),
    (∀ k, (h : k < str.length) → s.isDevice (s.reg 0 + BitVec.ofNat 16 k) = false ∧
      s.cell (s.reg 0 + BitVec.ofNat 16 k) = str[k] ∧ str[k] ≠ 0) →
    s.isDevice (s.reg 0 + BitVec.ofNat 16 str.length) = false →
    s.cell (s.reg 0 + BitVec.ofNat 16 str.length) = 0 →
    exec .trapPuts s = .next { s.setReg 7 s.pc with out := s.out ++ str.map (fun c : Word => c.setWidth 8) } ∧
    exec .trapPutsp s = .next { s.setReg 7 s.pc with out := s.out ++ str.flatMap (fun c : Word =>
      if c.toNat / 256 = 0 then [c.setWidth 8] else [c.setWidth 8, (c >>> 8).setWidth 8]) }

/-! ### Invariants -/

/-- The invariant holds after reset, for every value of the parameters that R8 allows. -/
def Obligations.ResetMeetsTheInvariant : Prop :=
  State.reset.Inv ∧ ∀ c : Config, c.wf → (State.resetWith c).Inv

/-- Every step keeps the invariant: canonical memory, nothing stored behind the devices, distinct device addresses, a
recorded fault only in HALTED, a wait only in RUNNING. -/
def Obligations.StepKeepsTheInvariant : Prop :=
  ∀ s t : State, s.Inv → step s = .next t → t.Inv

/-- R33, R201, R202, R209: every step keeps the fault record true: it holds the address and the word of an instruction
that raises an error of its kind, PC is the address after it, and after an unknown TRAP `R7` is that PC too. -/
def Obligations.StepKeepsTheFaultRecordTrue : Prop :=
  ∀ s t : State, s.faultRecordTrue → step s = .next t → t.faultRecordTrue

/-! ### The host's interface -/

/-- R41, R231: what reset leaves, for every value of the parameters; R8's defaults stand in State.reset (log entries 2 to
5). The empty keyboard and the empty schedule of a machine just made are the model's (log entries 6 and 7). The host's
reset gives the same from any state, OUT empty among it (log entry 19), but keeps what is not the core's: the keyboard,
the keys to come, and the parameters other than the START_PC it brings. -/
def Obligations.ResetLeavesTheTablesValues : Prop :=
  (∀ c : Config, let s := State.resetWith c
    (∀ r : Reg, s.reg r = c.resetGpr[r.val]) ∧ s.pc = c.startPc ∧ s.cond = c.resetCond ∧ s.run = .running ∧
    s.fault = none ∧ s.wait = .none ∧ (∀ a : Word, s.cell a = 0) ∧ s.out = [] ∧ s.kbq = [] ∧ s.arrivals = [] ∧
    s.cfg = c) ∧
  (∀ (s : State) (startPc : Word), let t := s.hostReset startPc
    t.pc = startPc ∧ (∀ r : Reg, t.reg r = s.cfg.resetGpr[r.val]) ∧ t.cond = s.cfg.resetCond ∧ t.run = .running ∧
    t.fault = none ∧ t.wait = .none ∧ (∀ a : Word, t.cell a = 0) ∧ t.out = [] ∧ t.kbq = s.kbq ∧
    t.arrivals = s.arrivals ∧ t.cfg = { s.cfg with startPc := startPc }) ∧
  State.reset.pc = 0x3000

/-- R73: load_image writes each word that is not aimed at a device address, writes nothing else, and is refused if it
would run past the last address (the spec's decision D12; log entry 14). -/
def Obligations.LoadImageWritesTheWords : Prop :=
  ∀ (origin : Word) (words : List Word) (s : State),
    (origin.toNat + words.length ≤ 65536 → s.mem.wf = true → ∃ t, loadImage origin words s = .next t ∧
      (∀ k, (h : k < words.length) → s.isDevice (origin + BitVec.ofNat 16 k) = false →
        t.cell (origin + BitVec.ofNat 16 k) = words[k]) ∧
      (∀ a : Word, s.isDevice a = true ∨ a.toNat < origin.toNat ∨ origin.toNat + words.length ≤ a.toNat →
        t.cell a = s.cell a) ∧
      t = { s with mem := t.mem }) ∧
    (65536 < origin.toNat + words.length → loadImage origin words s = .refused .imageTooLong)

/-- R249, R251: the status is 0 iff the run ended normally, else the fault's code, and there is none before the end. -/
def Obligations.ExitStatusTellsHowTheRunEnded : Prop :=
  ∀ s : State,
    (s.exitStatus = some 0 ↔ s.endedNormally) ∧
    ((∃ n, s.exitStatus = some n ∧ n ≠ 0) ↔ s.endedInFault) ∧
    (s.exitStatus = none ↔ s.run = .running) ∧
    (∀ f, s.run = .halted → s.fault = some f →
      (f.kind = .illegalOpcode → s.exitStatus = some 1) ∧ (f.kind = .unknownTrapVector → s.exitStatus = some 2))
end

