-- ==== Sys2Proof/Laws/Decode.lean ====
section
/-! SUPPORT. The decoder opcode by opcode, the fields of each instruction format, and what a masked word tells of a field. -/

namespace Sys2Proof

/-! ### Decoding, once the opcode is known (R93) -/

theorem decode_br {w : Word} (h : opcodeField w = 0x0#4) :
    decode w = .br (w.getLsbD 11) (w.getLsbD 10) (w.getLsbD 9) (offset9Field w) := by
  unfold decode; rw [h]; rfl

theorem decode_add {w : Word} (h : opcodeField w = 0x1#4) :
    decode w = if w.getLsbD 5 then .addImm (regField w 9) (regField w 6) (imm5Field w) else .addReg (regField w 9) (regField w 6) (regField w 0) := by
  unfold decode; rw [h]; rfl

theorem decode_ld {w : Word} (h : opcodeField w = 0x2#4) :
    decode w = .ld (regField w 9) (offset9Field w) := by
  unfold decode; rw [h]; rfl

theorem decode_st {w : Word} (h : opcodeField w = 0x3#4) :
    decode w = .st (regField w 9) (offset9Field w) := by
  unfold decode; rw [h]; rfl

theorem decode_jsr {w : Word} (h : opcodeField w = 0x4#4) :
    decode w = if w.getLsbD 11 then .jsr (offset11Field w) else .jsrr (regField w 6) := by
  unfold decode; rw [h]; rfl

theorem decode_and {w : Word} (h : opcodeField w = 0x5#4) :
    decode w = if w.getLsbD 5 then .andImm (regField w 9) (regField w 6) (imm5Field w) else .andReg (regField w 9) (regField w 6) (regField w 0) := by
  unfold decode; rw [h]; rfl

theorem decode_ldr {w : Word} (h : opcodeField w = 0x6#4) :
    decode w = .ldr (regField w 9) (regField w 6) (offset6Field w) := by
  unfold decode; rw [h]; rfl

theorem decode_str {w : Word} (h : opcodeField w = 0x7#4) :
    decode w = .str (regField w 9) (regField w 6) (offset6Field w) := by
  unfold decode; rw [h]; rfl

theorem decode_rti {w : Word} (h : opcodeField w = 0x8#4) :
    decode w = .rti (w.extractLsb' 0 12) := by
  unfold decode; rw [h]; rfl

theorem decode_not {w : Word} (h : opcodeField w = 0x9#4) :
    decode w = .not (regField w 9) (regField w 6) := by
  unfold decode; rw [h]; rfl

theorem decode_ldi {w : Word} (h : opcodeField w = 0xA#4) :
    decode w = .ldi (regField w 9) (offset9Field w) := by
  unfold decode; rw [h]; rfl

theorem decode_sti {w : Word} (h : opcodeField w = 0xB#4) :
    decode w = .sti (regField w 9) (offset9Field w) := by
  unfold decode; rw [h]; rfl

theorem decode_jmp {w : Word} (h : opcodeField w = 0xC#4) :
    decode w = .jmp (regField w 6) := by
  unfold decode; rw [h]; rfl

theorem decode_res {w : Word} (h : opcodeField w = 0xD#4) :
    decode w = .res (w.extractLsb' 0 12) := by
  unfold decode; rw [h]; rfl

theorem decode_lea {w : Word} (h : opcodeField w = 0xE#4) :
    decode w = .lea (regField w 9) (offset9Field w) := by
  unfold decode; rw [h]; rfl

theorem decode_trap {w : Word} (h : opcodeField w = 0xF#4) :
    decode w = decodeTrap (w.extractLsb' 8 4) (trapvectField w) := by
  unfold decode; rw [h]; rfl

/-! ### Reading fields back out of a word put together from them (formats R94 to R104) -/

theorem fields_operateReg (op : BitVec 4) (a : BitVec 3) (b : BitVec 3) (m : BitVec 3) (c : BitVec 3) :
    let w : Word := op ++ a ++ b ++ m ++ c
    w.extractLsb' 12 4 = op ∧
    w.extractLsb' 9 3 = a ∧
    w.extractLsb' 6 3 = b ∧
    w.getLsbD 5 = m.getLsbD 2 ∧
    w.extractLsb' 0 3 = c := by
  show @BitVec.extractLsb' (4+3+3+3+3) 12 4 (op ++ a ++ b ++ m ++ c) = op ∧
    @BitVec.extractLsb' (4+3+3+3+3) 9 3 (op ++ a ++ b ++ m ++ c) = a ∧
    @BitVec.extractLsb' (4+3+3+3+3) 6 3 (op ++ a ++ b ++ m ++ c) = b ∧
    @BitVec.getLsbD (4+3+3+3+3) (op ++ a ++ b ++ m ++ c) 5 = m.getLsbD 2 ∧
    @BitVec.extractLsb' (4+3+3+3+3) 0 3 (op ++ a ++ b ++ m ++ c) = c
  refine ⟨?_, ?_, ?_, ?_, ?_⟩ <;>
    simp (disch := decide) only [BitVec.extractLsb'_append_eq_of_le, BitVec.extractLsb'_append_eq_of_add_le,
      BitVec.getLsbD_append, Nat.reduceSub, BitVec.extractLsb'_eq_self, Nat.reduceLT, if_true, if_false]

theorem fields_operateImm (op : BitVec 4) (a : BitVec 3) (b : BitVec 3) (m : BitVec 1) (c : BitVec 5) :
    let w : Word := op ++ a ++ b ++ m ++ c
    w.extractLsb' 12 4 = op ∧
    w.extractLsb' 9 3 = a ∧
    w.extractLsb' 6 3 = b ∧
    w.getLsbD 5 = m.getLsbD 0 ∧
    w.extractLsb' 0 5 = c := by
  show @BitVec.extractLsb' (4+3+3+1+5) 12 4 (op ++ a ++ b ++ m ++ c) = op ∧
    @BitVec.extractLsb' (4+3+3+1+5) 9 3 (op ++ a ++ b ++ m ++ c) = a ∧
    @BitVec.extractLsb' (4+3+3+1+5) 6 3 (op ++ a ++ b ++ m ++ c) = b ∧
    @BitVec.getLsbD (4+3+3+1+5) (op ++ a ++ b ++ m ++ c) 5 = m.getLsbD 0 ∧
    @BitVec.extractLsb' (4+3+3+1+5) 0 5 (op ++ a ++ b ++ m ++ c) = c
  refine ⟨?_, ?_, ?_, ?_, ?_⟩ <;>
    simp (disch := decide) only [BitVec.extractLsb'_append_eq_of_le, BitVec.extractLsb'_append_eq_of_add_le,
      BitVec.getLsbD_append, Nat.reduceSub, BitVec.extractLsb'_eq_self, Nat.reduceLT, if_true, if_false]

theorem fields_baseOffset (op : BitVec 4) (a : BitVec 3) (b : BitVec 3) (c : BitVec 6) :
    let w : Word := op ++ a ++ b ++ c
    w.extractLsb' 12 4 = op ∧
    w.extractLsb' 9 3 = a ∧
    w.extractLsb' 6 3 = b ∧
    w.extractLsb' 0 6 = c ∧
    w.getLsbD 11 = a.getLsbD 2 := by
  show @BitVec.extractLsb' (4+3+3+6) 12 4 (op ++ a ++ b ++ c) = op ∧
    @BitVec.extractLsb' (4+3+3+6) 9 3 (op ++ a ++ b ++ c) = a ∧
    @BitVec.extractLsb' (4+3+3+6) 6 3 (op ++ a ++ b ++ c) = b ∧
    @BitVec.extractLsb' (4+3+3+6) 0 6 (op ++ a ++ b ++ c) = c ∧
    @BitVec.getLsbD (4+3+3+6) (op ++ a ++ b ++ c) 11 = a.getLsbD 2
  refine ⟨?_, ?_, ?_, ?_, ?_⟩ <;>
    simp (disch := decide) only [BitVec.extractLsb'_append_eq_of_le, BitVec.extractLsb'_append_eq_of_add_le,
      BitVec.getLsbD_append, Nat.reduceSub, BitVec.extractLsb'_eq_self, Nat.reduceLT, if_true, if_false]

theorem fields_br (op : BitVec 4) (n : BitVec 1) (z : BitVec 1) (p : BitVec 1) (c : BitVec 9) :
    let w : Word := op ++ n ++ z ++ p ++ c
    w.extractLsb' 12 4 = op ∧
    w.getLsbD 11 = n.getLsbD 0 ∧
    w.getLsbD 10 = z.getLsbD 0 ∧
    w.getLsbD 9 = p.getLsbD 0 ∧
    w.extractLsb' 0 9 = c := by
  show @BitVec.extractLsb' (4+1+1+1+9) 12 4 (op ++ n ++ z ++ p ++ c) = op ∧
    @BitVec.getLsbD (4+1+1+1+9) (op ++ n ++ z ++ p ++ c) 11 = n.getLsbD 0 ∧
    @BitVec.getLsbD (4+1+1+1+9) (op ++ n ++ z ++ p ++ c) 10 = z.getLsbD 0 ∧
    @BitVec.getLsbD (4+1+1+1+9) (op ++ n ++ z ++ p ++ c) 9 = p.getLsbD 0 ∧
    @BitVec.extractLsb' (4+1+1+1+9) 0 9 (op ++ n ++ z ++ p ++ c) = c
  refine ⟨?_, ?_, ?_, ?_, ?_⟩ <;>
    simp (disch := decide) only [BitVec.extractLsb'_append_eq_of_le, BitVec.extractLsb'_append_eq_of_add_le,
      BitVec.getLsbD_append, Nat.reduceSub, BitVec.extractLsb'_eq_self, Nat.reduceLT, if_true, if_false]

theorem fields_jsr (op : BitVec 4) (m : BitVec 1) (c : BitVec 11) :
    let w : Word := op ++ m ++ c
    w.extractLsb' 12 4 = op ∧
    w.getLsbD 11 = m.getLsbD 0 ∧
    w.extractLsb' 0 11 = c := by
  show @BitVec.extractLsb' (4+1+11) 12 4 (op ++ m ++ c) = op ∧
    @BitVec.getLsbD (4+1+11) (op ++ m ++ c) 11 = m.getLsbD 0 ∧
    @BitVec.extractLsb' (4+1+11) 0 11 (op ++ m ++ c) = c
  refine ⟨?_, ?_, ?_⟩ <;>
    simp (disch := decide) only [BitVec.extractLsb'_append_eq_of_le, BitVec.extractLsb'_append_eq_of_add_le,
      BitVec.getLsbD_append, Nat.reduceSub, BitVec.extractLsb'_eq_self, Nat.reduceLT, if_true, if_false]

theorem fields_pcRelative (op : BitVec 4) (a : BitVec 3) (c : BitVec 9) :
    let w : Word := op ++ a ++ c
    w.extractLsb' 12 4 = op ∧
    w.extractLsb' 9 3 = a ∧
    w.extractLsb' 0 9 = c := by
  show @BitVec.extractLsb' (4+3+9) 12 4 (op ++ a ++ c) = op ∧
    @BitVec.extractLsb' (4+3+9) 9 3 (op ++ a ++ c) = a ∧
    @BitVec.extractLsb' (4+3+9) 0 9 (op ++ a ++ c) = c
  refine ⟨?_, ?_, ?_⟩ <;>
    simp (disch := decide) only [BitVec.extractLsb'_append_eq_of_le, BitVec.extractLsb'_append_eq_of_add_le,
      Nat.reduceSub, BitVec.extractLsb'_eq_self]

theorem fields_trap (op : BitVec 4) (g : BitVec 4) (v : BitVec 8) :
    let w : Word := op ++ g ++ v
    w.extractLsb' 12 4 = op ∧
    w.extractLsb' 8 4 = g ∧
    w.extractLsb' 0 8 = v := by
  show @BitVec.extractLsb' (4+4+8) 12 4 (op ++ g ++ v) = op ∧
    @BitVec.extractLsb' (4+4+8) 8 4 (op ++ g ++ v) = g ∧
    @BitVec.extractLsb' (4+4+8) 0 8 (op ++ g ++ v) = v
  refine ⟨?_, ?_, ?_⟩ <;>
    simp (disch := decide) only [BitVec.extractLsb'_append_eq_of_le, BitVec.extractLsb'_append_eq_of_add_le,
      Nat.reduceSub, BitVec.extractLsb'_eq_self]

theorem fields_reserved (op : BitVec 4) (g : BitVec 12) :
    let w : Word := op ++ g
    w.extractLsb' 12 4 = op ∧
    w.extractLsb' 0 12 = g := by
  show @BitVec.extractLsb' (4+12) 12 4 (op ++ g) = op ∧
    @BitVec.extractLsb' (4+12) 0 12 (op ++ g) = g
  refine ⟨?_, ?_⟩ <;>
    simp (disch := decide) only [BitVec.extractLsb'_append_eq_of_le, BitVec.extractLsb'_append_eq_of_add_le,
      Nat.reduceSub, BitVec.extractLsb'_eq_self]

/-! ### Masked words -/

/-- What a row's test says of a field that the mask covers. -/
theorem field_of_masked {w m c : Word} (h : w &&& m = c) {start len : Nat}
    (hm : m.extractLsb' start len = BitVec.allOnes len) : w.extractLsb' start len = c.extractLsb' start len := by
  rw [← h, BitVec.extractLsb'_and, hm, BitVec.and_allOnes]

/-- What a row's test says of a bit that the mask covers. -/
theorem bit_of_masked {w m c : Word} (h : w &&& m = c) {k : Nat} (hm : m.getLsbD k = true) :
    w.getLsbD k = c.getLsbD k := by
  rw [← h, BitVec.getLsbD_and, hm, Bool.and_true]

/-- A word is its opcode field followed by its low 12 bits. -/
theorem word_eq_opcode_append (w : Word) : w = w.extractLsb' 12 4 ++ w.extractLsb' 0 12 := by
  rw [BitVec.extractLsb'_append_extractLsb'_eq_extractLsb' (by rfl)]
  exact BitVec.extractLsb'_eq_self.symm

/-- A word is its opcode field followed by `ir[11:8]` and its low byte. -/
theorem word_eq_trap_append (w : Word) : w = w.extractLsb' 12 4 ++ w.extractLsb' 8 4 ++ w.extractLsb' 0 8 := by
  rw [BitVec.extractLsb'_append_extractLsb'_eq_extractLsb' (by rfl),
    BitVec.extractLsb'_append_extractLsb'_eq_extractLsb' (by rfl)]
  exact BitVec.extractLsb'_eq_self.symm

@[simp] theorem toFin_regBits (r : Reg) : (regBits r).toFin = r := rfl

@[simp] theorem flagBit_getLsbD_zero (b : Bool) : (flagBit b).getLsbD 0 = b := by cases b <;> rfl

end Sys2Proof
end

