-- ==== Sys2Proof/Laws/Memory.lean ====
section
/-! SUPPORT. The laws of plain storage: read after write, and that every operation keeps the canonical form. -/

namespace Sys2Proof.Machine

@[simp] theorem Memory.read_nil (a : Nat) : Memory.read [] a = 0 := rfl

theorem Memory.read_cons (b : Nat) (v : Word) (m : Memory) (a : Nat) :
    Memory.read ((b, v) :: m) a = if a = b then v else Memory.read m a := rfl

/-- Below its lowest listed address a canonical memory lists nothing. -/
theorem Memory.read_below {lo : Nat} {m : Memory} (h : m.wfFrom lo = true) {a : Nat} (ha : a < lo) :
    m.read a = 0 := by
  induction m generalizing lo with
  | nil => rfl
  | cons e m ih =>
    obtain ⟨b, v⟩ := e
    simp only [Memory.wfFrom, Bool.and_eq_true, decide_eq_true_eq] at h
    obtain ⟨⟨⟨hb, -⟩, -⟩, hm⟩ := h
    rw [Memory.read_cons, if_neg (by omega)]
    exact ih hm (by omega)

theorem Memory.wfFrom_mono {lo lo' : Nat} {m : Memory} (h : m.wfFrom lo = true) (hl : lo' ≤ lo) :
    m.wfFrom lo' = true := by
  cases m with
  | nil => rfl
  | cons e m =>
    obtain ⟨b, v⟩ := e
    simp only [Memory.wfFrom, Bool.and_eq_true, decide_eq_true_eq] at h ⊢
    exact ⟨⟨⟨by omega, h.1.1.2⟩, h.1.2⟩, h.2⟩

theorem Memory.read_put_self {a : Nat} (v : Word) {m : Memory} (h : m.wfFrom (a + 1) = true) :
    (Memory.put a v m).read a = v := by
  by_cases hv : v = Memory.unlisted
  · rw [Memory.put, if_pos hv, Memory.read_below h (by omega), hv]; rfl
  · rw [Memory.put, if_neg hv, Memory.read_cons, if_pos rfl]

theorem Memory.read_put_of_ne {a c : Nat} (v : Word) (m : Memory) (h : c ≠ a) :
    (Memory.put a v m).read c = m.read c := by
  by_cases hv : v = Memory.unlisted
  · rw [Memory.put, if_pos hv]
  · rw [Memory.put, if_neg hv, Memory.read_cons, if_neg h]

theorem Memory.wfFrom_put {lo a : Nat} (v : Word) {m : Memory} (hlo : lo ≤ a) (ha : a < 65536)
    (h : m.wfFrom (a + 1) = true) : (Memory.put a v m).wfFrom lo = true := by
  by_cases hv : v = Memory.unlisted
  · rw [Memory.put, if_pos hv]; exact Memory.wfFrom_mono h (by omega)
  · rw [Memory.put, if_neg hv]
    simp only [Memory.wfFrom, Bool.and_eq_true, decide_eq_true_eq]
    exact ⟨⟨⟨hlo, ha⟩, hv⟩, h⟩

/-- A read of the address just written gives the value written. -/
theorem Memory.read_write_self {lo : Nat} {m : Memory} (h : m.wfFrom lo = true) (a : Nat) (v : Word) :
    (m.write a v).read a = v := by
  induction m generalizing lo with
  | nil => exact Memory.read_put_self v rfl
  | cons e m ih =>
    obtain ⟨b, u⟩ := e
    have hc := h
    simp only [Memory.wfFrom, Bool.and_eq_true, decide_eq_true_eq] at h
    obtain ⟨⟨⟨hb, hb'⟩, hu⟩, hm⟩ := h
    unfold Memory.write
    split
    · rename_i hab
      refine Memory.read_put_self v ?_
      simp only [Memory.wfFrom, Bool.and_eq_true, decide_eq_true_eq]
      exact ⟨⟨⟨by omega, hb'⟩, hu⟩, hm⟩
    · split
      · rename_i hab; subst hab; exact Memory.read_put_self v hm
      · rename_i hab; rw [Memory.read_cons, if_neg hab]; exact ih hm

/-- A write leaves every other address alone. -/
theorem Memory.read_write_of_ne (m : Memory) {a c : Nat} (v : Word) (h : c ≠ a) :
    (m.write a v).read c = m.read c := by
  induction m with
  | nil => exact Memory.read_put_of_ne v [] h
  | cons e m ih =>
    obtain ⟨b, u⟩ := e
    unfold Memory.write
    split
    · exact Memory.read_put_of_ne v _ h
    · split
      · rename_i hab; subst hab
        rw [Memory.read_put_of_ne v m h, Memory.read_cons, if_neg h]
      · rw [Memory.read_cons, Memory.read_cons, ih]

theorem Memory.wfFrom_write {lo : Nat} {m : Memory} (h : m.wfFrom lo = true) {a : Nat} (v : Word) (hlo : lo ≤ a)
    (ha : a < 65536) : (m.write a v).wfFrom lo = true := by
  induction m generalizing lo with
  | nil => exact Memory.wfFrom_put v hlo ha rfl
  | cons e m ih =>
    obtain ⟨b, u⟩ := e
    simp only [Memory.wfFrom, Bool.and_eq_true, decide_eq_true_eq] at h
    obtain ⟨⟨⟨hb, hb'⟩, hu⟩, hm⟩ := h
    unfold Memory.write
    split
    · refine Memory.wfFrom_put v hlo ha ?_
      simp only [Memory.wfFrom, Bool.and_eq_true, decide_eq_true_eq]
      exact ⟨⟨⟨by omega, hb'⟩, hu⟩, hm⟩
    · split
      · rename_i hab; subst hab; exact Memory.wfFrom_put v hlo ha hm
      · simp only [Memory.wfFrom, Bool.and_eq_true, decide_eq_true_eq]
        exact ⟨⟨⟨hb, hb'⟩, hu⟩, ih hm (by omega)⟩

/-- A write keeps the canonical form. -/
theorem Memory.wf_write {m : Memory} (h : m.wf = true) {a : Nat} (v : Word) (ha : a < 65536) :
    (m.write a v).wf = true := Memory.wfFrom_write h v (Nat.zero_le a) ha

/-- The memory after reset lists nothing and is canonical. -/
theorem Memory.wf_nil : Memory.wf [] = true := rfl

end Sys2Proof.Machine
end

