-- ==== Sys2Proof/Laws/State.lean ====
section
/-! SUPPORT. One lemma per field per update of the state, and how `reg`, `cell` and `isDevice` see each update. -/

namespace Sys2Proof.Machine

/-! ### setReg -/

@[simp] theorem State.setReg_regs (s : State) (r : Reg) (v : Word) : (s.setReg r v).regs = s.regs.set r.val v := rfl
@[simp] theorem State.setReg_pc (s : State) (r : Reg) (v : Word) : (s.setReg r v).pc = s.pc := rfl
@[simp] theorem State.setReg_cond (s : State) (r : Reg) (v : Word) : (s.setReg r v).cond = s.cond := rfl
@[simp] theorem State.setReg_run (s : State) (r : Reg) (v : Word) : (s.setReg r v).run = s.run := rfl
@[simp] theorem State.setReg_fault (s : State) (r : Reg) (v : Word) : (s.setReg r v).fault = s.fault := rfl
@[simp] theorem State.setReg_wait (s : State) (r : Reg) (v : Word) : (s.setReg r v).wait = s.wait := rfl
@[simp] theorem State.setReg_mem (s : State) (r : Reg) (v : Word) : (s.setReg r v).mem = s.mem := rfl
@[simp] theorem State.setReg_kbq (s : State) (r : Reg) (v : Word) : (s.setReg r v).kbq = s.kbq := rfl
@[simp] theorem State.setReg_out (s : State) (r : Reg) (v : Word) : (s.setReg r v).out = s.out := rfl
@[simp] theorem State.setReg_cfg (s : State) (r : Reg) (v : Word) : (s.setReg r v).cfg = s.cfg := rfl
@[simp] theorem State.setReg_arrivals (s : State) (r : Reg) (v : Word) : (s.setReg r v).arrivals = s.arrivals := rfl
@[simp] theorem State.setReg_draws (s : State) (r : Reg) (v : Word) : (s.setReg r v).draws = s.draws := rfl
@[simp] theorem State.setReg_cell (s : State) (r : Reg) (v : Word) (a : Word) : (s.setReg r v).cell a = s.cell a := rfl
@[simp] theorem State.setReg_isDevice (s : State) (r : Reg) (v : Word) (a : Word) : (s.setReg r v).isDevice a = s.isDevice a := rfl

/-! ### setPc -/

@[simp] theorem State.setPc_regs (s : State) (t : Word) : (s.setPc t).regs = s.regs := rfl
@[simp] theorem State.setPc_pc (s : State) (t : Word) : (s.setPc t).pc = t := rfl
@[simp] theorem State.setPc_cond (s : State) (t : Word) : (s.setPc t).cond = s.cond := rfl
@[simp] theorem State.setPc_run (s : State) (t : Word) : (s.setPc t).run = s.run := rfl
@[simp] theorem State.setPc_fault (s : State) (t : Word) : (s.setPc t).fault = s.fault := rfl
@[simp] theorem State.setPc_wait (s : State) (t : Word) : (s.setPc t).wait = s.wait := rfl
@[simp] theorem State.setPc_mem (s : State) (t : Word) : (s.setPc t).mem = s.mem := rfl
@[simp] theorem State.setPc_kbq (s : State) (t : Word) : (s.setPc t).kbq = s.kbq := rfl
@[simp] theorem State.setPc_out (s : State) (t : Word) : (s.setPc t).out = s.out := rfl
@[simp] theorem State.setPc_cfg (s : State) (t : Word) : (s.setPc t).cfg = s.cfg := rfl
@[simp] theorem State.setPc_arrivals (s : State) (t : Word) : (s.setPc t).arrivals = s.arrivals := rfl
@[simp] theorem State.setPc_draws (s : State) (t : Word) : (s.setPc t).draws = s.draws := rfl
@[simp] theorem State.setPc_cell (s : State) (t : Word) (a : Word) : (s.setPc t).cell a = s.cell a := rfl
@[simp] theorem State.setPc_isDevice (s : State) (t : Word) (a : Word) : (s.setPc t).isDevice a = s.isDevice a := rfl
@[simp] theorem State.setPc_reg (s : State) (t : Word) (q : Reg) : (s.setPc t).reg q = s.reg q := rfl

/-! ### link -/

@[simp] theorem State.link_regs (s : State) : (s.link).regs = s.regs.set 7 s.pc := rfl
@[simp] theorem State.link_pc (s : State) : (s.link).pc = s.pc := rfl
@[simp] theorem State.link_cond (s : State) : (s.link).cond = s.cond := rfl
@[simp] theorem State.link_run (s : State) : (s.link).run = s.run := rfl
@[simp] theorem State.link_fault (s : State) : (s.link).fault = s.fault := rfl
@[simp] theorem State.link_wait (s : State) : (s.link).wait = s.wait := rfl
@[simp] theorem State.link_mem (s : State) : (s.link).mem = s.mem := rfl
@[simp] theorem State.link_kbq (s : State) : (s.link).kbq = s.kbq := rfl
@[simp] theorem State.link_out (s : State) : (s.link).out = s.out := rfl
@[simp] theorem State.link_cfg (s : State) : (s.link).cfg = s.cfg := rfl
@[simp] theorem State.link_arrivals (s : State) : (s.link).arrivals = s.arrivals := rfl
@[simp] theorem State.link_draws (s : State) : (s.link).draws = s.draws := rfl
@[simp] theorem State.link_cell (s : State) (a : Word) : (s.link).cell a = s.cell a := rfl
@[simp] theorem State.link_isDevice (s : State) (a : Word) : (s.link).isDevice a = s.isDevice a := rfl

/-! ### consoleOut -/

@[simp] theorem State.consoleOut_regs (s : State) (bs : List Byte) : (s.consoleOut bs).regs = s.regs := rfl
@[simp] theorem State.consoleOut_pc (s : State) (bs : List Byte) : (s.consoleOut bs).pc = s.pc := rfl
@[simp] theorem State.consoleOut_cond (s : State) (bs : List Byte) : (s.consoleOut bs).cond = s.cond := rfl
@[simp] theorem State.consoleOut_run (s : State) (bs : List Byte) : (s.consoleOut bs).run = s.run := rfl
@[simp] theorem State.consoleOut_fault (s : State) (bs : List Byte) : (s.consoleOut bs).fault = s.fault := rfl
@[simp] theorem State.consoleOut_wait (s : State) (bs : List Byte) : (s.consoleOut bs).wait = s.wait := rfl
@[simp] theorem State.consoleOut_mem (s : State) (bs : List Byte) : (s.consoleOut bs).mem = s.mem := rfl
@[simp] theorem State.consoleOut_kbq (s : State) (bs : List Byte) : (s.consoleOut bs).kbq = s.kbq := rfl
@[simp] theorem State.consoleOut_out (s : State) (bs : List Byte) : (s.consoleOut bs).out = s.out ++ bs := rfl
@[simp] theorem State.consoleOut_cfg (s : State) (bs : List Byte) : (s.consoleOut bs).cfg = s.cfg := rfl
@[simp] theorem State.consoleOut_arrivals (s : State) (bs : List Byte) : (s.consoleOut bs).arrivals = s.arrivals := rfl
@[simp] theorem State.consoleOut_draws (s : State) (bs : List Byte) : (s.consoleOut bs).draws = s.draws := rfl
@[simp] theorem State.consoleOut_cell (s : State) (bs : List Byte) (a : Word) : (s.consoleOut bs).cell a = s.cell a := rfl
@[simp] theorem State.consoleOut_isDevice (s : State) (bs : List Byte) (a : Word) : (s.consoleOut bs).isDevice a = s.isDevice a := rfl
@[simp] theorem State.consoleOut_reg (s : State) (bs : List Byte) (q : Reg) : (s.consoleOut bs).reg q = s.reg q := rfl

/-! ### setRun -/

@[simp] theorem State.setRun_regs (s : State) (r : Run) : (s.setRun r).regs = s.regs := rfl
@[simp] theorem State.setRun_pc (s : State) (r : Run) : (s.setRun r).pc = s.pc := rfl
@[simp] theorem State.setRun_cond (s : State) (r : Run) : (s.setRun r).cond = s.cond := rfl
@[simp] theorem State.setRun_run (s : State) (r : Run) : (s.setRun r).run = r := rfl
@[simp] theorem State.setRun_fault (s : State) (r : Run) : (s.setRun r).fault = s.fault := rfl
@[simp] theorem State.setRun_wait (s : State) (r : Run) : (s.setRun r).wait = s.wait := rfl
@[simp] theorem State.setRun_mem (s : State) (r : Run) : (s.setRun r).mem = s.mem := rfl
@[simp] theorem State.setRun_kbq (s : State) (r : Run) : (s.setRun r).kbq = s.kbq := rfl
@[simp] theorem State.setRun_out (s : State) (r : Run) : (s.setRun r).out = s.out := rfl
@[simp] theorem State.setRun_cfg (s : State) (r : Run) : (s.setRun r).cfg = s.cfg := rfl
@[simp] theorem State.setRun_arrivals (s : State) (r : Run) : (s.setRun r).arrivals = s.arrivals := rfl
@[simp] theorem State.setRun_draws (s : State) (r : Run) : (s.setRun r).draws = s.draws := rfl
@[simp] theorem State.setRun_cell (s : State) (r : Run) (a : Word) : (s.setRun r).cell a = s.cell a := rfl
@[simp] theorem State.setRun_isDevice (s : State) (r : Run) (a : Word) : (s.setRun r).isDevice a = s.isDevice a := rfl
@[simp] theorem State.setRun_reg (s : State) (r : Run) (q : Reg) : (s.setRun r).reg q = s.reg q := rfl

/-! ### setWait -/

@[simp] theorem State.setWait_regs (s : State) (w : Wait) : (s.setWait w).regs = s.regs := rfl
@[simp] theorem State.setWait_pc (s : State) (w : Wait) : (s.setWait w).pc = s.pc := rfl
@[simp] theorem State.setWait_cond (s : State) (w : Wait) : (s.setWait w).cond = s.cond := rfl
@[simp] theorem State.setWait_run (s : State) (w : Wait) : (s.setWait w).run = s.run := rfl
@[simp] theorem State.setWait_fault (s : State) (w : Wait) : (s.setWait w).fault = s.fault := rfl
@[simp] theorem State.setWait_wait (s : State) (w : Wait) : (s.setWait w).wait = w := rfl
@[simp] theorem State.setWait_mem (s : State) (w : Wait) : (s.setWait w).mem = s.mem := rfl
@[simp] theorem State.setWait_kbq (s : State) (w : Wait) : (s.setWait w).kbq = s.kbq := rfl
@[simp] theorem State.setWait_out (s : State) (w : Wait) : (s.setWait w).out = s.out := rfl
@[simp] theorem State.setWait_cfg (s : State) (w : Wait) : (s.setWait w).cfg = s.cfg := rfl
@[simp] theorem State.setWait_arrivals (s : State) (w : Wait) : (s.setWait w).arrivals = s.arrivals := rfl
@[simp] theorem State.setWait_draws (s : State) (w : Wait) : (s.setWait w).draws = s.draws := rfl
@[simp] theorem State.setWait_cell (s : State) (w : Wait) (a : Word) : (s.setWait w).cell a = s.cell a := rfl
@[simp] theorem State.setWait_isDevice (s : State) (w : Wait) (a : Word) : (s.setWait w).isDevice a = s.isDevice a := rfl
@[simp] theorem State.setWait_reg (s : State) (w : Wait) (q : Reg) : (s.setWait w).reg q = s.reg q := rfl

/-! ### raiseFatal -/

@[simp] theorem State.raiseFatal_regs (s : State) (k : FaultKind) (w : Word) : (s.raiseFatal k w).regs = s.regs := rfl
@[simp] theorem State.raiseFatal_pc (s : State) (k : FaultKind) (w : Word) : (s.raiseFatal k w).pc = s.pc := rfl
@[simp] theorem State.raiseFatal_cond (s : State) (k : FaultKind) (w : Word) : (s.raiseFatal k w).cond = s.cond := rfl
@[simp] theorem State.raiseFatal_run (s : State) (k : FaultKind) (w : Word) : (s.raiseFatal k w).run = .halted := rfl
@[simp] theorem State.raiseFatal_fault (s : State) (k : FaultKind) (w : Word) : (s.raiseFatal k w).fault = some ⟨k, s.pc - 1, w⟩ := rfl
@[simp] theorem State.raiseFatal_wait (s : State) (k : FaultKind) (w : Word) : (s.raiseFatal k w).wait = s.wait := rfl
@[simp] theorem State.raiseFatal_mem (s : State) (k : FaultKind) (w : Word) : (s.raiseFatal k w).mem = s.mem := rfl
@[simp] theorem State.raiseFatal_kbq (s : State) (k : FaultKind) (w : Word) : (s.raiseFatal k w).kbq = s.kbq := rfl
@[simp] theorem State.raiseFatal_out (s : State) (k : FaultKind) (w : Word) : (s.raiseFatal k w).out = s.out := rfl
@[simp] theorem State.raiseFatal_cfg (s : State) (k : FaultKind) (w : Word) : (s.raiseFatal k w).cfg = s.cfg := rfl
@[simp] theorem State.raiseFatal_arrivals (s : State) (k : FaultKind) (w : Word) : (s.raiseFatal k w).arrivals = s.arrivals := rfl
@[simp] theorem State.raiseFatal_draws (s : State) (k : FaultKind) (w : Word) : (s.raiseFatal k w).draws = s.draws := rfl
@[simp] theorem State.raiseFatal_cell (s : State) (k : FaultKind) (w : Word) (a : Word) : (s.raiseFatal k w).cell a = s.cell a := rfl
@[simp] theorem State.raiseFatal_isDevice (s : State) (k : FaultKind) (w : Word) (a : Word) : (s.raiseFatal k w).isDevice a = s.isDevice a := rfl
@[simp] theorem State.raiseFatal_reg (s : State) (k : FaultKind) (w : Word) (q : Reg) : (s.raiseFatal k w).reg q = s.reg q := rfl

/-! ### setcc -/

@[simp] theorem State.setcc_regs (s : State) (v : Word) : (s.setcc v).regs = s.regs := rfl
@[simp] theorem State.setcc_pc (s : State) (v : Word) : (s.setcc v).pc = s.pc := rfl
@[simp] theorem State.setcc_cond (s : State) (v : Word) : (s.setcc v).cond = condOf v := rfl
@[simp] theorem State.setcc_run (s : State) (v : Word) : (s.setcc v).run = s.run := rfl
@[simp] theorem State.setcc_fault (s : State) (v : Word) : (s.setcc v).fault = s.fault := rfl
@[simp] theorem State.setcc_wait (s : State) (v : Word) : (s.setcc v).wait = s.wait := rfl
@[simp] theorem State.setcc_mem (s : State) (v : Word) : (s.setcc v).mem = s.mem := rfl
@[simp] theorem State.setcc_kbq (s : State) (v : Word) : (s.setcc v).kbq = s.kbq := rfl
@[simp] theorem State.setcc_out (s : State) (v : Word) : (s.setcc v).out = s.out := rfl
@[simp] theorem State.setcc_cfg (s : State) (v : Word) : (s.setcc v).cfg = s.cfg := rfl
@[simp] theorem State.setcc_arrivals (s : State) (v : Word) : (s.setcc v).arrivals = s.arrivals := rfl
@[simp] theorem State.setcc_draws (s : State) (v : Word) : (s.setcc v).draws = s.draws := rfl
@[simp] theorem State.setcc_cell (s : State) (v : Word) (a : Word) : (s.setcc v).cell a = s.cell a := rfl
@[simp] theorem State.setcc_isDevice (s : State) (v : Word) (a : Word) : (s.setcc v).isDevice a = s.isDevice a := rfl
@[simp] theorem State.setcc_reg (s : State) (v : Word) (q : Reg) : (s.setcc v).reg q = s.reg q := rfl

/-! ### writeResult -/

@[simp] theorem State.writeResult_regs (s : State) (r : Reg) (v : Word) : (s.writeResult r v).regs = s.regs.set r.val v := rfl
@[simp] theorem State.writeResult_pc (s : State) (r : Reg) (v : Word) : (s.writeResult r v).pc = s.pc := rfl
@[simp] theorem State.writeResult_cond (s : State) (r : Reg) (v : Word) : (s.writeResult r v).cond = condOf v := rfl
@[simp] theorem State.writeResult_run (s : State) (r : Reg) (v : Word) : (s.writeResult r v).run = s.run := rfl
@[simp] theorem State.writeResult_fault (s : State) (r : Reg) (v : Word) : (s.writeResult r v).fault = s.fault := rfl
@[simp] theorem State.writeResult_wait (s : State) (r : Reg) (v : Word) : (s.writeResult r v).wait = s.wait := rfl
@[simp] theorem State.writeResult_mem (s : State) (r : Reg) (v : Word) : (s.writeResult r v).mem = s.mem := rfl
@[simp] theorem State.writeResult_kbq (s : State) (r : Reg) (v : Word) : (s.writeResult r v).kbq = s.kbq := rfl
@[simp] theorem State.writeResult_out (s : State) (r : Reg) (v : Word) : (s.writeResult r v).out = s.out := rfl
@[simp] theorem State.writeResult_cfg (s : State) (r : Reg) (v : Word) : (s.writeResult r v).cfg = s.cfg := rfl
@[simp] theorem State.writeResult_arrivals (s : State) (r : Reg) (v : Word) : (s.writeResult r v).arrivals = s.arrivals := rfl
@[simp] theorem State.writeResult_draws (s : State) (r : Reg) (v : Word) : (s.writeResult r v).draws = s.draws := rfl
@[simp] theorem State.writeResult_cell (s : State) (r : Reg) (v : Word) (a : Word) : (s.writeResult r v).cell a = s.cell a := rfl
@[simp] theorem State.writeResult_isDevice (s : State) (r : Reg) (v : Word) (a : Word) : (s.writeResult r v).isDevice a = s.isDevice a := rfl

/-! ### keyArrives -/

@[simp] theorem State.keyArrives_regs (s : State) (b : Byte) : (s.keyArrives b).regs = s.regs := rfl
@[simp] theorem State.keyArrives_pc (s : State) (b : Byte) : (s.keyArrives b).pc = s.pc := rfl
@[simp] theorem State.keyArrives_cond (s : State) (b : Byte) : (s.keyArrives b).cond = s.cond := rfl
@[simp] theorem State.keyArrives_run (s : State) (b : Byte) : (s.keyArrives b).run = s.run := rfl
@[simp] theorem State.keyArrives_fault (s : State) (b : Byte) : (s.keyArrives b).fault = s.fault := rfl
@[simp] theorem State.keyArrives_wait (s : State) (b : Byte) : (s.keyArrives b).wait = s.wait := rfl
@[simp] theorem State.keyArrives_mem (s : State) (b : Byte) : (s.keyArrives b).mem = s.mem := rfl
@[simp] theorem State.keyArrives_kbq (s : State) (b : Byte) : (s.keyArrives b).kbq = s.kbq ++ [b] := rfl
@[simp] theorem State.keyArrives_out (s : State) (b : Byte) : (s.keyArrives b).out = s.out := rfl
@[simp] theorem State.keyArrives_cfg (s : State) (b : Byte) : (s.keyArrives b).cfg = s.cfg := rfl
@[simp] theorem State.keyArrives_arrivals (s : State) (b : Byte) : (s.keyArrives b).arrivals = s.arrivals := rfl
@[simp] theorem State.keyArrives_draws (s : State) (b : Byte) : (s.keyArrives b).draws = s.draws := rfl
@[simp] theorem State.keyArrives_cell (s : State) (b : Byte) (a : Word) : (s.keyArrives b).cell a = s.cell a := rfl
@[simp] theorem State.keyArrives_isDevice (s : State) (b : Byte) (a : Word) : (s.keyArrives b).isDevice a = s.isDevice a := rfl
@[simp] theorem State.keyArrives_reg (s : State) (b : Byte) (q : Reg) : (s.keyArrives b).reg q = s.reg q := rfl

/-! ### Reading a register back -/

theorem State.reg_setReg (s : State) (r q : Reg) (v : Word) :
    (s.setReg r v).reg q = if q = r then v else s.reg q := by
  simp only [State.reg, State.setReg, Vector.getElem_set]
  by_cases h : q = r
  · simp [h]
  · have : ¬ r.val = q.val := fun e => h (Fin.ext e.symm)
    simp [h, this]

@[simp] theorem State.setReg_reg_self (s : State) (r : Reg) (v : Word) : (s.setReg r v).reg r = v := by
  simp [State.reg_setReg]

theorem State.setReg_reg_of_ne (s : State) {r q : Reg} (v : Word) (h : q ≠ r) :
    (s.setReg r v).reg q = s.reg q := by
  simp [State.reg_setReg, h]

theorem State.reg_writeResult (s : State) (r q : Reg) (v : Word) :
    (s.writeResult r v).reg q = if q = r then v else s.reg q := s.reg_setReg r q v

@[simp] theorem State.writeResult_reg_self (s : State) (r : Reg) (v : Word) : (s.writeResult r v).reg r = v :=
  s.setReg_reg_self r v

theorem State.reg_link (s : State) (q : Reg) : s.link.reg q = if q = 7 then s.pc else s.reg q := s.reg_setReg 7 q s.pc

@[simp] theorem State.link_reg_seven (s : State) : s.link.reg 7 = s.pc := s.setReg_reg_self 7 s.pc

@[simp] theorem State.link_reg_zero (s : State) : s.link.reg 0 = s.reg 0 := s.setReg_reg_of_ne s.pc (by decide)

/-! ### The state after reset, field by field (R41) -/

@[simp] theorem State.resetWith_regs (c : Config) : (State.resetWith c).regs = c.resetGpr := rfl
@[simp] theorem State.resetWith_pc (c : Config) : (State.resetWith c).pc = c.startPc := rfl
@[simp] theorem State.resetWith_cond (c : Config) : (State.resetWith c).cond = c.resetCond := rfl
@[simp] theorem State.resetWith_run (c : Config) : (State.resetWith c).run = .running := rfl
@[simp] theorem State.resetWith_fault (c : Config) : (State.resetWith c).fault = none := rfl
@[simp] theorem State.resetWith_wait (c : Config) : (State.resetWith c).wait = .none := rfl
@[simp] theorem State.resetWith_mem (c : Config) : (State.resetWith c).mem = [] := rfl
@[simp] theorem State.resetWith_kbq (c : Config) : (State.resetWith c).kbq = [] := rfl
@[simp] theorem State.resetWith_out (c : Config) : (State.resetWith c).out = [] := rfl
@[simp] theorem State.resetWith_cfg (c : Config) : (State.resetWith c).cfg = c := rfl
@[simp] theorem State.resetWith_arrivals (c : Config) : (State.resetWith c).arrivals = [] := rfl
@[simp] theorem State.resetWith_draws (c : Config) : (State.resetWith c).draws = 0 := rfl

/-! ### hostReset (R230) -/

@[simp] theorem State.hostReset_regs (s : State) (p : Word) : (s.hostReset p).regs = s.cfg.resetGpr := rfl
@[simp] theorem State.hostReset_pc (s : State) (p : Word) : (s.hostReset p).pc = p := rfl
@[simp] theorem State.hostReset_cond (s : State) (p : Word) : (s.hostReset p).cond = s.cfg.resetCond := rfl
@[simp] theorem State.hostReset_run (s : State) (p : Word) : (s.hostReset p).run = .running := rfl
@[simp] theorem State.hostReset_fault (s : State) (p : Word) : (s.hostReset p).fault = none := rfl
@[simp] theorem State.hostReset_wait (s : State) (p : Word) : (s.hostReset p).wait = .none := rfl
@[simp] theorem State.hostReset_mem (s : State) (p : Word) : (s.hostReset p).mem = [] := rfl
@[simp] theorem State.hostReset_kbq (s : State) (p : Word) : (s.hostReset p).kbq = s.kbq := rfl
@[simp] theorem State.hostReset_out (s : State) (p : Word) : (s.hostReset p).out = [] := rfl
@[simp] theorem State.hostReset_cfg (s : State) (p : Word) : (s.hostReset p).cfg = { s.cfg with startPc := p } := rfl
@[simp] theorem State.hostReset_arrivals (s : State) (p : Word) : (s.hostReset p).arrivals = s.arrivals := rfl
@[simp] theorem State.hostReset_draws (s : State) (p : Word) : (s.hostReset p).draws = s.draws := rfl

end Sys2Proof.Machine
end

