-- ==== Sys2Proof/Laws/Ops.lean ====
section
/-! SUPPORT. What each shared operation over memory, keyboard, loads and key waits can do, said once. -/

namespace Sys2Proof.Machine

/-- Equal but for the two things a read may change: the key queue and the count of draws. -/
def State.sameButKeys (s t : State) : Prop := t = { s with kbq := t.kbq, draws := t.draws }

theorem State.sameButKeys_refl (s : State) : s.sameButKeys s := rfl

theorem State.sameButKeys.trans {s t u : State} (h : s.sameButKeys t) (k : t.sameButKeys u) : s.sameButKeys u := by
  unfold State.sameButKeys at *; rw [k, h]

/-! ### Keyboard reads -/

theorem State.readKbdr_pending {s : State} {key : Byte} {rest : List Byte} (h : s.kbq = key :: rest) :
    s.readKbdr = (zext8 key, { s with kbq := rest }) := by simp [State.readKbdr, h]

theorem State.readKbdr_empty {s : State} (h : s.kbq = []) :
    s.readKbdr = (Config.freeWord s.draws, { s with draws := s.draws + 1 }) := by simp [State.readKbdr, h]

theorem State.keyPending_iff (s : State) : s.keyPending = true ↔ s.kbq ≠ [] := by simp [State.keyPending]

/-! ### memRead (R52) -/

theorem State.memRead_kbsr {s : State} {a : Word} (h : a = s.cfg.kbsrAddr) : s.memRead a = (s.kbsrValue, s) := by
  simp [State.memRead, h]

theorem State.memRead_kbdr {s : State} {a : Word} (h : a ≠ s.cfg.kbsrAddr) (k : a = s.cfg.kbdrAddr) :
    s.memRead a = s.readKbdr := by
  rw [State.memRead, if_neg h, if_pos k]

theorem State.isDevice_iff (s : State) (a : Word) :
    s.isDevice a = true ↔ a = s.cfg.kbsrAddr ∨ a = s.cfg.kbdrAddr := by simp [State.isDevice]

theorem State.memRead_ordinary {s : State} {a : Word} (h : s.isDevice a = false) : s.memRead a = (s.cell a, s) := by
  have := (s.isDevice_iff a).not.mp (by simp [h])
  rw [State.memRead, if_neg (fun e => this (.inl e)), if_neg (fun e => this (.inr e))]

/-- All that a read can do: report KBSR, take the head key at KBDR, draw a word at KBDR, or read a cell. -/
theorem State.memRead_cases (s : State) (a : Word) :
    (a = s.cfg.kbsrAddr ∧ s.memRead a = (s.kbsrValue, s)) ∨
    (a ≠ s.cfg.kbsrAddr ∧ a = s.cfg.kbdrAddr ∧ ∃ key rest, s.kbq = key :: rest ∧
      s.memRead a = (zext8 key, { s with kbq := rest })) ∨
    (a ≠ s.cfg.kbsrAddr ∧ a = s.cfg.kbdrAddr ∧ s.kbq = [] ∧
      s.memRead a = (Config.freeWord s.draws, { s with draws := s.draws + 1 })) ∨
    (s.isDevice a = false ∧ s.memRead a = (s.cell a, s)) := by
  by_cases h : a = s.cfg.kbsrAddr
  · exact .inl ⟨h, State.memRead_kbsr h⟩
  by_cases k : a = s.cfg.kbdrAddr
  · rcases hq : s.kbq with - | ⟨key, rest⟩
    · exact .inr (.inr (.inl ⟨h, k, rfl, by rw [State.memRead_kbdr h k, State.readKbdr_empty hq, ← hq]⟩))
    · exact .inr (.inl ⟨h, k, key, rest, rfl, by rw [State.memRead_kbdr h k, State.readKbdr_pending hq]⟩)
  · have hd : s.isDevice a = false := by simp [State.isDevice, h, k]
    exact .inr (.inr (.inr ⟨hd, State.memRead_ordinary hd⟩))

theorem State.memRead_sameButKeys (s : State) (a : Word) : s.sameButKeys (s.memRead a).2 := by
  rcases s.memRead_cases a with ⟨-, h⟩ | ⟨-, -, _, _, -, h⟩ | ⟨-, -, -, h⟩ | ⟨-, h⟩ <;> rw [h] <;> rfl

/-- A read takes keys from the head of the queue only. -/
theorem State.memRead_kbq_suffix (s : State) (a : Word) : ∃ ks, s.kbq = ks ++ (s.memRead a).2.kbq := by
  rcases s.memRead_cases a with ⟨-, h⟩ | ⟨-, -, key, _, hq, h⟩ | ⟨-, -, -, h⟩ | ⟨-, h⟩ <;> rw [h]
  · exact ⟨[], rfl⟩
  · exact ⟨[key], hq⟩
  · exact ⟨[], rfl⟩
  · exact ⟨[], rfl⟩

@[simp] theorem State.memRead_regs (s : State) (a : Word) : (s.memRead a).2.regs = s.regs := by
  rw [s.memRead_sameButKeys a]
@[simp] theorem State.memRead_pc (s : State) (a : Word) : (s.memRead a).2.pc = s.pc := by
  rw [s.memRead_sameButKeys a]
@[simp] theorem State.memRead_cond (s : State) (a : Word) : (s.memRead a).2.cond = s.cond := by
  rw [s.memRead_sameButKeys a]
@[simp] theorem State.memRead_run (s : State) (a : Word) : (s.memRead a).2.run = s.run := by
  rw [s.memRead_sameButKeys a]
@[simp] theorem State.memRead_fault (s : State) (a : Word) : (s.memRead a).2.fault = s.fault := by
  rw [s.memRead_sameButKeys a]
@[simp] theorem State.memRead_wait (s : State) (a : Word) : (s.memRead a).2.wait = s.wait := by
  rw [s.memRead_sameButKeys a]
@[simp] theorem State.memRead_mem (s : State) (a : Word) : (s.memRead a).2.mem = s.mem := by
  rw [s.memRead_sameButKeys a]
@[simp] theorem State.memRead_out (s : State) (a : Word) : (s.memRead a).2.out = s.out := by
  rw [s.memRead_sameButKeys a]
@[simp] theorem State.memRead_cfg (s : State) (a : Word) : (s.memRead a).2.cfg = s.cfg := by
  rw [s.memRead_sameButKeys a]
@[simp] theorem State.memRead_arrivals (s : State) (a : Word) : (s.memRead a).2.arrivals = s.arrivals := by
  rw [s.memRead_sameButKeys a]
@[simp] theorem State.memRead_reg (s : State) (a : Word) (q : Reg) : (s.memRead a).2.reg q = s.reg q := by
  simp [State.reg]
@[simp] theorem State.memRead_cell (s : State) (a b : Word) : (s.memRead a).2.cell b = s.cell b := by
  simp [State.cell]
@[simp] theorem State.memRead_isDevice (s : State) (a b : Word) : (s.memRead a).2.isDevice b = s.isDevice b := by
  simp [State.isDevice]

/-! ### indirect (R150) -/

@[simp] theorem State.indirect_regs (s : State) (o : BitVec 9) : (s.indirect o).2.regs = s.regs := s.memRead_regs _
@[simp] theorem State.indirect_pc (s : State) (o : BitVec 9) : (s.indirect o).2.pc = s.pc := s.memRead_pc _
@[simp] theorem State.indirect_cond (s : State) (o : BitVec 9) : (s.indirect o).2.cond = s.cond := s.memRead_cond _
@[simp] theorem State.indirect_run (s : State) (o : BitVec 9) : (s.indirect o).2.run = s.run := s.memRead_run _
@[simp] theorem State.indirect_fault (s : State) (o : BitVec 9) : (s.indirect o).2.fault = s.fault := s.memRead_fault _
@[simp] theorem State.indirect_wait (s : State) (o : BitVec 9) : (s.indirect o).2.wait = s.wait := s.memRead_wait _
@[simp] theorem State.indirect_mem (s : State) (o : BitVec 9) : (s.indirect o).2.mem = s.mem := s.memRead_mem _
@[simp] theorem State.indirect_out (s : State) (o : BitVec 9) : (s.indirect o).2.out = s.out := s.memRead_out _
@[simp] theorem State.indirect_cfg (s : State) (o : BitVec 9) : (s.indirect o).2.cfg = s.cfg := s.memRead_cfg _
@[simp] theorem State.indirect_arrivals (s : State) (o : BitVec 9) : (s.indirect o).2.arrivals = s.arrivals := s.memRead_arrivals _
@[simp] theorem State.indirect_reg (s : State) (o : BitVec 9) (q : Reg) : (s.indirect o).2.reg q = s.reg q := s.memRead_reg _ q
@[simp] theorem State.indirect_cell (s : State) (o : BitVec 9) (b : Word) : (s.indirect o).2.cell b = s.cell b := s.memRead_cell _ b
@[simp] theorem State.indirect_isDevice (s : State) (o : BitVec 9) (b : Word) :
    (s.indirect o).2.isDevice b = s.isDevice b := s.memRead_isDevice _ b

/-! ### memWrite (R53) -/

theorem State.memWrite_device {s : State} {a : Word} (h : s.isDevice a = true) (v : Word) : s.memWrite a v = s := by
  simp [State.memWrite, h]

theorem State.memWrite_ordinary {s : State} {a : Word} (h : s.isDevice a = false) (v : Word) :
    s.memWrite a v = { s with mem := s.mem.write a.toNat v } := by simp [State.memWrite, h]

@[simp] theorem State.memWrite_regs (s : State) (a v : Word) : (s.memWrite a v).regs = s.regs := by
  unfold State.memWrite; split <;> rfl
@[simp] theorem State.memWrite_pc (s : State) (a v : Word) : (s.memWrite a v).pc = s.pc := by
  unfold State.memWrite; split <;> rfl
@[simp] theorem State.memWrite_cond (s : State) (a v : Word) : (s.memWrite a v).cond = s.cond := by
  unfold State.memWrite; split <;> rfl
@[simp] theorem State.memWrite_run (s : State) (a v : Word) : (s.memWrite a v).run = s.run := by
  unfold State.memWrite; split <;> rfl
@[simp] theorem State.memWrite_fault (s : State) (a v : Word) : (s.memWrite a v).fault = s.fault := by
  unfold State.memWrite; split <;> rfl
@[simp] theorem State.memWrite_wait (s : State) (a v : Word) : (s.memWrite a v).wait = s.wait := by
  unfold State.memWrite; split <;> rfl
@[simp] theorem State.memWrite_kbq (s : State) (a v : Word) : (s.memWrite a v).kbq = s.kbq := by
  unfold State.memWrite; split <;> rfl
@[simp] theorem State.memWrite_out (s : State) (a v : Word) : (s.memWrite a v).out = s.out := by
  unfold State.memWrite; split <;> rfl
@[simp] theorem State.memWrite_cfg (s : State) (a v : Word) : (s.memWrite a v).cfg = s.cfg := by
  unfold State.memWrite; split <;> rfl
@[simp] theorem State.memWrite_arrivals (s : State) (a v : Word) : (s.memWrite a v).arrivals = s.arrivals := by
  unfold State.memWrite; split <;> rfl
@[simp] theorem State.memWrite_draws (s : State) (a v : Word) : (s.memWrite a v).draws = s.draws := by
  unfold State.memWrite; split <;> rfl
@[simp] theorem State.memWrite_reg (s : State) (a v : Word) (q : Reg) : (s.memWrite a v).reg q = s.reg q := by
  simp [State.reg]
@[simp] theorem State.memWrite_isDevice (s : State) (a v b : Word) : (s.memWrite a v).isDevice b = s.isDevice b := by
  simp [State.isDevice]

theorem State.cell_memWrite_self {s : State} (hm : s.mem.wf = true) {a : Word} (h : s.isDevice a = false) (v : Word) :
    (s.memWrite a v).cell a = v := by
  rw [State.memWrite_ordinary h]
  exact Memory.read_write_self hm a.toNat v

theorem State.cell_memWrite_of_ne (s : State) {a b : Word} (v : Word) (h : b ≠ a) :
    (s.memWrite a v).cell b = s.cell b := by
  unfold State.memWrite
  split
  · rfl
  · exact Memory.read_write_of_ne s.mem v (fun e => h (BitVec.eq_of_toNat_eq e))

theorem State.memWrite_wf {s : State} (hm : s.mem.wf = true) (a v : Word) : (s.memWrite a v).mem.wf = true := by
  unfold State.memWrite
  split
  · exact hm
  · exact Memory.wf_write hm v a.isLt

/-! ### loadTo -/

@[simp] theorem State.loadTo_pc (s : State) (dr : Reg) (a : Word) : (s.loadTo dr a).pc = s.pc := by
  simp [State.loadTo]
@[simp] theorem State.loadTo_run (s : State) (dr : Reg) (a : Word) : (s.loadTo dr a).run = s.run := by
  simp [State.loadTo]
@[simp] theorem State.loadTo_fault (s : State) (dr : Reg) (a : Word) : (s.loadTo dr a).fault = s.fault := by
  simp [State.loadTo]
@[simp] theorem State.loadTo_wait (s : State) (dr : Reg) (a : Word) : (s.loadTo dr a).wait = s.wait := by
  simp [State.loadTo]
@[simp] theorem State.loadTo_mem (s : State) (dr : Reg) (a : Word) : (s.loadTo dr a).mem = s.mem := by
  simp [State.loadTo]
@[simp] theorem State.loadTo_out (s : State) (dr : Reg) (a : Word) : (s.loadTo dr a).out = s.out := by
  simp [State.loadTo]
@[simp] theorem State.loadTo_cfg (s : State) (dr : Reg) (a : Word) : (s.loadTo dr a).cfg = s.cfg := by
  simp [State.loadTo]
@[simp] theorem State.loadTo_arrivals (s : State) (dr : Reg) (a : Word) : (s.loadTo dr a).arrivals = s.arrivals := by
  simp [State.loadTo]
@[simp] theorem State.loadTo_kbq (s : State) (dr : Reg) (a : Word) : (s.loadTo dr a).kbq = (s.memRead a).2.kbq := by
  simp [State.loadTo]
@[simp] theorem State.loadTo_draws (s : State) (dr : Reg) (a : Word) : (s.loadTo dr a).draws = (s.memRead a).2.draws := by
  simp [State.loadTo]
@[simp] theorem State.loadTo_cond (s : State) (dr : Reg) (a : Word) : (s.loadTo dr a).cond = condOf (s.memRead a).1 := by
  simp [State.loadTo]
@[simp] theorem State.loadTo_cell (s : State) (dr : Reg) (a b : Word) : (s.loadTo dr a).cell b = s.cell b := by
  simp [State.loadTo]
theorem State.reg_loadTo (s : State) (dr q : Reg) (a : Word) :
    (s.loadTo dr a).reg q = if q = dr then (s.memRead a).1 else s.reg q := by
  simp [State.loadTo, State.reg_writeResult]

/-! ### Conditions -/

theorem condOf_reflects (v : Word) : condReflects (condOf v) v := by
  have hm : v.getLsbD 15 = decide (32768 ≤ v.toNat) := by
    have := BitVec.msb_eq_decide v
    simpa [BitVec.msb_eq_getLsbD_last] using this
  have hz : v = 0 ↔ v.toNat = 0 := by
    rw [← BitVec.toNat_inj]; rfl
  have e : condOf v = if 32768 ≤ v.toNat then .negative else if v.toNat = 0 then .zero else .positive := by
    unfold condOf
    simp only [hm, decide_eq_true_eq, hz]
  unfold condReflects
  rw [e]
  by_cases h : 32768 ≤ v.toNat
  · simp [h]; omega
  · by_cases k : v.toNat = 0
    · simp [k]
    · simp [h, k]; omega

theorem branchTaken_iff (n z p : Bool) (c : Cond) :
    branchTaken n z p c = true ↔ (n = true ∧ c = .negative) ∨ (z = true ∧ c = .zero) ∨ (p = true ∧ c = .positive) := by
  revert n z p; cases c <;> decide

/-- R109: a BR with no condition bit is a no-op, one with all three always branches. -/
@[simp] theorem branchTaken_never (c : Cond) : branchTaken false false false c = false := by cases c <;> decide

@[simp] theorem branchTaken_always (c : Cond) : branchTaken true true true c = true := by cases c <;> decide

end Sys2Proof.Machine
end

