-- ==== Sys2Proof/Laws/PerInstr.lean ====
section
/-! SUPPORT. Statements about every instruction, one lemma per constructor. RoundTrip: decoding the word of a well-formed
instruction gives the instruction back. -/

namespace Sys2Proof.Laws.RoundTrip

def Statement (i : Instr) : Prop := i.wf = true → decode (encode i) = i

theorem addReg (dr sr1 sr2 : Reg) : Statement (.addReg dr sr1 sr2) := fun _ => by
  obtain ⟨ho, h9, h6, h5, h0⟩ := fields_operateReg 0x1#4 (regBits dr) (regBits sr1) 0#3 (regBits sr2)
  simp only [encode, decode_add ho, regField, imm5Field]
  rw [h9, h6, h5, h0]
  rfl

theorem addImm (dr sr1 : Reg) (imm5 : BitVec 5) : Statement (.addImm dr sr1 imm5) := fun _ => by
  obtain ⟨ho, h9, h6, h5, h0⟩ := fields_operateImm 0x1#4 (regBits dr) (regBits sr1) 1#1 imm5
  simp only [encode, decode_add ho, regField, imm5Field]
  rw [h9, h6, h5, h0]
  rfl

theorem andReg (dr sr1 sr2 : Reg) : Statement (.andReg dr sr1 sr2) := fun _ => by
  obtain ⟨ho, h9, h6, h5, h0⟩ := fields_operateReg 0x5#4 (regBits dr) (regBits sr1) 0#3 (regBits sr2)
  simp only [encode, decode_and ho, regField, imm5Field]
  rw [h9, h6, h5, h0]
  rfl

theorem andImm (dr sr1 : Reg) (imm5 : BitVec 5) : Statement (.andImm dr sr1 imm5) := fun _ => by
  obtain ⟨ho, h9, h6, h5, h0⟩ := fields_operateImm 0x5#4 (regBits dr) (regBits sr1) 1#1 imm5
  simp only [encode, decode_and ho, regField, imm5Field]
  rw [h9, h6, h5, h0]
  rfl

theorem not (dr sr : Reg) : Statement (.not dr sr) := fun _ => by
  obtain ⟨ho, h9, h6, -, -⟩ := fields_baseOffset 0x9#4 (regBits dr) (regBits sr) 0x3F#6
  simp only [encode, decode_not ho, regField]
  rw [h9, h6]
  rfl

theorem br (n z p : Bool) (offset9 : BitVec 9) : Statement (.br n z p offset9) := fun _ => by
  obtain ⟨ho, h11, h10, h9, h0⟩ := fields_br 0x0#4 (flagBit n) (flagBit z) (flagBit p) offset9
  simp only [encode, decode_br ho, offset9Field]
  rw [h11, h10, h9, h0, flagBit_getLsbD_zero, flagBit_getLsbD_zero, flagBit_getLsbD_zero]

theorem jmp (baseR : Reg) : Statement (.jmp baseR) := fun _ => by
  obtain ⟨ho, -, h6, -, -⟩ := fields_baseOffset 0xC#4 0#3 (regBits baseR) 0#6
  simp only [encode, decode_jmp ho, regField]
  rw [h6]
  rfl

theorem jsr (offset11 : BitVec 11) : Statement (.jsr offset11) := fun _ => by
  obtain ⟨ho, h11, h0⟩ := fields_jsr 0x4#4 1#1 offset11
  simp only [encode, decode_jsr ho, offset11Field]
  rw [h11, h0]
  rfl

theorem jsrr (baseR : Reg) : Statement (.jsrr baseR) := fun _ => by
  obtain ⟨ho, -, h6, -, h11⟩ := fields_baseOffset 0x4#4 0#3 (regBits baseR) 0#6
  simp only [encode, decode_jsr ho, regField]
  rw [h11, h6]
  rfl

theorem ld (dr : Reg) (offset9 : BitVec 9) : Statement (.ld dr offset9) := fun _ => by
  obtain ⟨ho, h9, h0⟩ := fields_pcRelative 0x2#4 (regBits dr) offset9
  simp only [encode, decode_ld ho, regField, offset9Field]
  rw [h9, h0]
  rfl

theorem ldi (dr : Reg) (offset9 : BitVec 9) : Statement (.ldi dr offset9) := fun _ => by
  obtain ⟨ho, h9, h0⟩ := fields_pcRelative 0xA#4 (regBits dr) offset9
  simp only [encode, decode_ldi ho, regField, offset9Field]
  rw [h9, h0]
  rfl

theorem ldr (dr baseR : Reg) (offset6 : BitVec 6) : Statement (.ldr dr baseR offset6) := fun _ => by
  obtain ⟨ho, h9, h6, h0, -⟩ := fields_baseOffset 0x6#4 (regBits dr) (regBits baseR) offset6
  simp only [encode, decode_ldr ho, regField, offset6Field]
  rw [h9, h6, h0]
  rfl

theorem lea (dr : Reg) (offset9 : BitVec 9) : Statement (.lea dr offset9) := fun _ => by
  obtain ⟨ho, h9, h0⟩ := fields_pcRelative 0xE#4 (regBits dr) offset9
  simp only [encode, decode_lea ho, regField, offset9Field]
  rw [h9, h0]
  rfl

theorem st (sr : Reg) (offset9 : BitVec 9) : Statement (.st sr offset9) := fun _ => by
  obtain ⟨ho, h9, h0⟩ := fields_pcRelative 0x3#4 (regBits sr) offset9
  simp only [encode, decode_st ho, regField, offset9Field]
  rw [h9, h0]
  rfl

theorem sti (sr : Reg) (offset9 : BitVec 9) : Statement (.sti sr offset9) := fun _ => by
  obtain ⟨ho, h9, h0⟩ := fields_pcRelative 0xB#4 (regBits sr) offset9
  simp only [encode, decode_sti ho, regField, offset9Field]
  rw [h9, h0]
  rfl

theorem str (sr baseR : Reg) (offset6 : BitVec 6) : Statement (.str sr baseR offset6) := fun _ => by
  obtain ⟨ho, h9, h6, h0, -⟩ := fields_baseOffset 0x7#4 (regBits sr) (regBits baseR) offset6
  simp only [encode, decode_str ho, regField, offset6Field]
  rw [h9, h6, h0]
  rfl

theorem trapGetc : Statement .trapGetc := fun _ => by decide

theorem trapOut : Statement .trapOut := fun _ => by decide

theorem trapPuts : Statement .trapPuts := fun _ => by decide

theorem trapIn : Statement .trapIn := fun _ => by decide

theorem trapPutsp : Statement .trapPutsp := fun _ => by decide

theorem trapHalt : Statement .trapHalt := fun _ => by decide

theorem trapUnknown (ignored : BitVec 4) (trapvect8 : BitVec 8) : Statement (.trapUnknown ignored trapvect8) := fun h => by
  obtain ⟨ho, h8, h0⟩ := fields_trap 0xF#4 ignored trapvect8
  simp only [encode, decode_trap ho, trapvectField]
  rw [h8, h0]
  have undefined : definedVector trapvect8 = false := by simpa [Instr.wf] using h
  unfold decodeTrap
  repeat rw [if_neg (by rintro rfl; exact absurd undefined (by decide))]

theorem rti (ignored : BitVec 12) : Statement (.rti ignored) := fun _ => by
  obtain ⟨ho, h0⟩ := fields_reserved 0x8#4 ignored
  simp only [encode, decode_rti ho]
  rw [h0]

theorem res (ignored : BitVec 12) : Statement (.res ignored) := fun _ => by
  obtain ⟨ho, h0⟩ := fields_reserved 0xD#4 ignored
  simp only [encode, decode_res ho]
  rw [h0]

end Sys2Proof.Laws.RoundTrip
end

