-- ==== Sys2Proof/Laws/Trap.lean ====
section
/-! SUPPORT. What the shared operations of the trap dispatcher can do: the key wait and the string walk. -/

namespace Sys2Proof.Machine

/-! ### The key wait (R182) -/

/-- With distinct device addresses phase 2 takes the head key. -/
theorem State.completeKeyWait_pending {s : State} (hc : s.cfg.wf) {key : Byte} {rest : List Byte}
    (h : s.kbq = key :: rest) (w : Wait) : s.completeKeyWait w =
      (({ s with kbq := rest, out := s.out ++ (if w = .inKey then [key] else []) } : State).setReg 0 (zext8 key)).setWait
        .none := by
  have hk : lowByte (zext8 key) = key := by
    simp [lowByte, zext8, ← BitVec.toNat_inj]
    omega
  unfold State.completeKeyWait
  rw [State.memRead_kbdr hc rfl, State.readKbdr_pending h]
  by_cases hw : w = .inKey
  · simp [hw, hk, State.consoleOut]
  · simp [hw]

@[simp] theorem State.completeKeyWait_pc (s : State) (w : Wait) : (s.completeKeyWait w).pc = s.pc := by
  unfold State.completeKeyWait; split <;> simp
@[simp] theorem State.completeKeyWait_cond (s : State) (w : Wait) : (s.completeKeyWait w).cond = s.cond := by
  unfold State.completeKeyWait; split <;> simp
@[simp] theorem State.completeKeyWait_run (s : State) (w : Wait) : (s.completeKeyWait w).run = s.run := by
  unfold State.completeKeyWait; split <;> simp
@[simp] theorem State.completeKeyWait_fault (s : State) (w : Wait) : (s.completeKeyWait w).fault = s.fault := by
  unfold State.completeKeyWait; split <;> simp
@[simp] theorem State.completeKeyWait_wait (s : State) (w : Wait) : (s.completeKeyWait w).wait = .none := rfl
@[simp] theorem State.completeKeyWait_mem (s : State) (w : Wait) : (s.completeKeyWait w).mem = s.mem := by
  unfold State.completeKeyWait; split <;> simp
@[simp] theorem State.completeKeyWait_cfg (s : State) (w : Wait) : (s.completeKeyWait w).cfg = s.cfg := by
  unfold State.completeKeyWait; split <;> simp
@[simp] theorem State.completeKeyWait_arrivals (s : State) (w : Wait) : (s.completeKeyWait w).arrivals = s.arrivals := by
  unfold State.completeKeyWait; split <;> simp
@[simp] theorem State.completeKeyWait_regs (s : State) (w : Wait) : (s.completeKeyWait w).regs = s.regs.set 0 (s.memRead s.cfg.kbdrAddr).1 := by
  unfold State.completeKeyWait; split <;> simp
@[simp] theorem State.completeKeyWait_kbq (s : State) (w : Wait) : (s.completeKeyWait w).kbq = (s.memRead s.cfg.kbdrAddr).2.kbq := by
  unfold State.completeKeyWait; split <;> simp
@[simp] theorem State.completeKeyWait_draws (s : State) (w : Wait) : (s.completeKeyWait w).draws = (s.memRead s.cfg.kbdrAddr).2.draws := by
  unfold State.completeKeyWait; split <;> simp
@[simp] theorem State.completeKeyWait_out (s : State) (w : Wait) : (s.completeKeyWait w).out =
    s.out ++ (if w = .inKey then [lowByte (s.memRead s.cfg.kbdrAddr).1] else []) := by
  unfold State.completeKeyWait; split <;> simp

/-- Phase 1 ends in phase 2 at once, or suspends the core. -/
theorem State.awaitKey_cases (s : State) (w : Wait) :
    (s.kbq ≠ [] ∧ s.awaitKey w = s.completeKeyWait w) ∨ (s.kbq = [] ∧ s.awaitKey w = s.setWait w) := by
  by_cases h : s.kbq = []
  · exact .inr ⟨h, by rw [State.awaitKey, if_neg (by simp [State.keyPending, h])]⟩
  · exact .inl ⟨h, by rw [State.awaitKey, if_pos (s.keyPending_iff.mpr h)]⟩

theorem State.awaitKey_pending {s : State} (h : s.kbq ≠ []) (w : Wait) : s.awaitKey w = s.completeKeyWait w := by
  rw [State.awaitKey, if_pos (s.keyPending_iff.mpr h)]

theorem State.awaitKey_empty {s : State} (h : s.kbq = []) (w : Wait) : s.awaitKey w = s.setWait w := by
  rw [State.awaitKey, if_neg (by simp [State.keyPending, h])]

/-! ### The string walk (R174, R176) -/

/-- Equal but for what a walk may change: the key queue, the count of draws and the console output. -/
def State.sameButConsole (s t : State) : Prop := t = { s with kbq := t.kbq, draws := t.draws, out := t.out }

theorem State.walkString_zero (chars : Word → List Byte) (a : Word) (s : State) :
    State.walkString chars 0 a s = none := rfl

theorem State.walkString_succ (chars : Word → List Byte) (n : Nat) (a : Word) (s : State) :
    State.walkString chars (n + 1) a s =
      if (s.memRead a).1 = 0 then some (s.memRead a).2
      else State.walkString chars n (a + 1) ((s.memRead a).2.consoleOut (chars (s.memRead a).1)) := rfl

/-- A walk that ends has changed nothing but the key queue, the count of draws and the console output; it has taken keys
from the head of the queue and appended to the output. -/
theorem State.walkString_frame {chars : Word → List Byte} {n : Nat} {a : Word} {s t : State}
    (h : State.walkString chars n a s = some t) :
    s.sameButConsole t ∧ (∃ ks, s.kbq = ks ++ t.kbq) ∧ ∃ bs, t.out = s.out ++ bs := by
  induction n generalizing a s with
  | zero => exact absurd h (by simp [State.walkString_zero])
  | succ n ih =>
    rw [State.walkString_succ] at h
    obtain ⟨taken, htaken⟩ := s.memRead_kbq_suffix a
    have hread := s.memRead_sameButKeys a
    split at h
    · obtain rfl := Option.some.inj h
      exact ⟨by unfold State.sameButConsole; rw [hread], ⟨taken, htaken⟩, [], by simp⟩
    · obtain ⟨hsame, ⟨ks, hks⟩, bs, hbs⟩ := ih h
      refine ⟨?_, ⟨taken ++ ks, ?_⟩, chars (s.memRead a).1 ++ bs, ?_⟩
      · unfold State.sameButConsole at *
        rw [hsame, hread]
        rfl
      · simpa [htaken] using hks
      · simpa [List.append_assoc] using hbs

/-- PUTS and PUTSP have a next state exactly when their walk ends, and it is the state in which it ends. -/
theorem State.writeString_next_iff {chars : Word → List Byte} {s t : State} :
    s.writeString chars = .next t ↔ State.walkString chars s.walkFuel (s.reg 0) s = some t := by
  unfold State.writeString
  split
  · rename_i u hu; rw [hu]; exact ⟨fun h => by cases h; rfl, fun h => by cases h; rfl⟩
  · rename_i hu; rw [hu]; exact ⟨fun h => (nomatch h), fun h => (nomatch h)⟩

/-- More cell reads do not change a walk that has ended. -/
theorem State.walkString_more {chars : Word → List Byte} {n : Nat} {a : Word} {s t : State}
    (h : State.walkString chars n a s = some t) (k : Nat) : State.walkString chars (n + k) a s = some t := by
  induction n generalizing a s with
  | zero => exact absurd h (by simp [State.walkString_zero])
  | succ n ih =>
    rw [Nat.add_right_comm, State.walkString_succ]
    rw [State.walkString_succ] at h
    split
    · rename_i hz; rwa [if_pos hz] at h
    · rename_i hz; rw [if_neg hz] at h; exact ih h

end Sys2Proof.Machine
end

