-- ==== Sys2Proof/Laws/Step.lean ====
section
/-! SUPPORT. What a step can do, said once. -/

namespace Sys2Proof.Machine

theorem State.keysArrive_eq (s : State) (keys : List Byte) : s.keysArrive keys = { s with kbq := s.kbq ++ keys } := by
  induction keys generalizing s with
  | nil => simp [State.keysArrive]
  | cons key rest ih => simp [State.keysArrive, ih, State.keyArrives]

/-- The keys of the schedule's first slot are queued behind those pending, and the slot is used up. -/
theorem State.deliverKeys_eq (s : State) :
    s.deliverKeys = { s with kbq := s.kbq ++ s.arrivals.headD [], arrivals := s.arrivals.tail } := by
  rcases h : s.arrivals with - | ⟨keys, later⟩
  · simp only [State.deliverKeys, h, List.headD_nil, List.append_nil, List.tail_nil]
    cases s; simp_all
  · simp [State.deliverKeys, h, State.keysArrive_eq]

theorem step_halted {s : State} (h : s.run = .halted) : step s = .fault .coreHalted := by simp [step, h]

theorem step_fetch {s : State} (hr : s.run = .running) (hw : s.wait = .none) :
    step s = exec (decode s.deliverKeys.fetch.1) s.deliverKeys.fetch.2 := by
  have : s.deliverKeys.wait = .none := by rw [State.deliverKeys_eq]; exact hw
  simp [step, hr, this]

theorem step_waiting {s : State} (hr : s.run = .running) (hw : s.wait ≠ .none) :
    step s = resumeWait s.wait s.deliverKeys := by
  have : s.deliverKeys.wait = s.wait := by rw [State.deliverKeys_eq]
  rcases h : s.wait with - | - | -
  · exact absurd h hw
  all_goals simp [step, hr, this, h]

/-- All that a step with a next state can be: an instruction of a core that is not waiting, the completion of a key wait,
or a wait that goes on. -/
theorem step_cases {s t : State} (h : step s = .next t) :
    s.run = .running ∧
    ((s.wait = .none ∧ exec (decode s.deliverKeys.fetch.1) s.deliverKeys.fetch.2 = .next t) ∨
     (s.wait ≠ .none ∧ s.deliverKeys.keyPending = true ∧ t = s.deliverKeys.completeKeyWait s.wait) ∨
     (s.wait ≠ .none ∧ s.deliverKeys.keyPending = false ∧ s.deliverKeys.arrivals ≠ [] ∧ t = s.deliverKeys)) := by
  rcases hr : s.run with - | -
  · refine ⟨rfl, ?_⟩
    by_cases hw : s.wait = .none
    · exact .inl ⟨hw, by rw [← step_fetch hr hw]; exact h⟩
    · rw [step_waiting hr hw, resumeWait] at h
      split at h
      · rename_i hp; exact .inr (.inl ⟨hw, hp, (Host.Outcome.next.inj h).symm⟩)
      · rename_i hp
        split at h
        · cases h
        · rename_i he
          exact .inr (.inr ⟨hw, by simpa using hp, by simpa using he, (Host.Outcome.next.inj h).symm⟩)
  · rw [step_halted hr] at h; cases h

/-! ### Runs -/

@[simp] theorem run_zero (s : State) : Sys2Proof.core.run 0 s = .next s := rfl

/-- A run whose first step has a next state goes on from there. -/
theorem run_succ_next {s u : State} (h : step s = .next u) (n : Nat) :
    Sys2Proof.core.run (n + 1) s = Sys2Proof.core.run n u := by
  simp only [Host.Core.run, Sys2Proof.core, h]

/-- A run whose first step faults ends there. -/
theorem run_succ_fault {s : State} {f : Fault} (h : step s = .fault f) (n : Nat) :
    Sys2Proof.core.run (n + 1) s = .fault f := by
  simp only [Host.Core.run, Sys2Proof.core, h]

/-! ### Fetch -/

/-- The fetch changes PC and, at a device address, what a read may change. -/
theorem State.fetch_snd (s : State) : s.fetch.2 = (s.memRead s.pc).2.setPc (s.pc + 1) := rfl

theorem State.fetch_ordinary {s : State} (h : s.isDevice s.pc = false) : s.fetch = (s.cell s.pc, s.setPc (s.pc + 1)) := by
  rw [State.fetch, State.memRead_ordinary h]

end Sys2Proof.Machine
end

