-- ==== Sys2Proof/Tests/Slice0.lean ====
section
/-! SUPPORT. Tests: words written out from the encodings, the vectors of spec/95_test_vectors.md (its words are named by
their hex), and a witness for the hypotheses of each statement that has some. -/

namespace Sys2Proof.Tests

open Sys2Proof.Machine

/-! ### Building states and looking at outcomes -/

/-- The reset state with PC, COND, registers, cells and pending keys as given. -/
def build (pc : Word) (cond : Cond) (regs : List (Reg × Word)) (cells : List (Nat × Word)) (keys : List Byte) : State :=
  { State.reset with
    pc := pc, cond := cond, kbq := keys
    regs := regs.foldl (fun v (e : Reg × Word) => v.set e.1.val e.2) State.reset.regs
    mem := cells.foldl (fun m (e : Nat × Word) => m.write e.1 e.2) [] }

/-- `f` of the state after one step. -/
def after {α : Type} (s : State) (f : State → α) : Option α :=
  match step s with
  | .next t => some (f t)
  | _ => none

/-! ### WellFormed refuses an ill-formed term (R108, R110) -/

theorem test_wf_refuses_a_routine_vector :
    (Instr.trapUnknown 0 0x20).wf = false ∧ (Instr.trapUnknown 5 0x25).wf = false := by decide

theorem test_wf_accepts_the_neighbours :
    (Instr.trapUnknown 0 0x1F).wf = true ∧ (Instr.trapUnknown 0 0x26).wf = true := by decide

/-! ### Decoding: one word a constructor, written out from R94 to R104 -/

theorem test_decode_operate :
    decode 0b0001000001000010#16 = .addReg 0 1 2 ∧ decode 0b0001110101111101#16 = .addImm 6 5 0b11101 ∧
    decode 0b0101011100000111#16 = .andReg 3 4 7 ∧ decode 0b0101001010110000#16 = .andImm 1 2 0b10000 ∧
    decode 0b1001101011111111#16 = .not 5 3 := by decide

theorem test_decode_control :
    decode 0b0000100000000101#16 = .br true false false 5 ∧ decode 0b0000011111111110#16 = .br false true true 0x1FE ∧
    decode 0b1100000110000000#16 = .jmp 6 ∧ decode 0b0100110000000001#16 = .jsr 0x401 ∧
    decode 0b0100000101000000#16 = .jsrr 5 := by decide

theorem test_decode_load_store :
    decode 0b0010001100000110#16 = .ld 1 0x106 ∧ decode 0b1010010000000001#16 = .ldi 2 1 ∧
    decode 0b0110011100100001#16 = .ldr 3 4 0x21 ∧ decode 0b1110100000000111#16 = .lea 4 7 ∧
    decode 0b0011101111111111#16 = .st 5 0x1FF ∧ decode 0b1011110000000010#16 = .sti 6 2 ∧
    decode 0b0111111010000011#16 = .str 7 2 3 := by decide

theorem test_decode_trap_and_reserved :
    decode 0b1111000000100000#16 = .trapGetc ∧ decode 0b1111000000100001#16 = .trapOut ∧
    decode 0b1111000000100010#16 = .trapPuts ∧ decode 0b1111000000100011#16 = .trapIn ∧
    decode 0b1111000000100100#16 = .trapPutsp ∧ decode 0b1111000000100101#16 = .trapHalt ∧
    decode 0b1111010100100110#16 = .trapUnknown 5 0x26 ∧ decode 0b1000000000000001#16 = .rti 1 ∧
    decode 0b1101101010111100#16 = .res 0xABC := by decide

theorem test_decode_ignores_uncovered_bits :
    decode 0x105A#16 = decode 0x1042#16 ∧ decode 0x9040#16 = decode 0x907F#16 ∧ decode 0xCEBF#16 = decode 0xC080#16 ∧
    decode 0x46BF#16 = decode 0x4080#16 ∧ decode 0xFF25#16 = decode 0xF025#16 := by decide

theorem test_encode_canonical_words :
    encode (.addImm 0 1 3) = 0x1063#16 ∧ encode (.not 1 1) = 0x927F#16 ∧ encode (.jmp 7) = 0xC1C0#16 ∧
    encode (.jsrr 2) = 0x4080#16 ∧ encode (.br false false true 0x1FD) = 0x03FD#16 ∧ encode (.sti 5 2) = 0xBA02#16 ∧
    encode .trapHalt = 0xF025#16 ∧ encode (.trapUnknown 0 0xFF) = 0xF0FF#16 := by decide

theorem test_decodeTableWord : decodeTableWord 16 0x927F = some (.not 1 1) ∧ decodeTableWord 32 0 = none := by decide

/-! ### Section 2.1, sign extension -/

theorem test_sext :
    sext 0x0F#5 = 0x000F#16 ∧ sext 0x10#5 = 0xFFF0#16 ∧ sext 0x20#6 = 0xFFE0#16 ∧ sext 0x0FF#9 = 0x00FF#16 ∧
    sext 0x100#9 = 0xFF00#16 ∧ sext 0x400#11 = 0xFC00#16 := by decide

/-! ### Section 2.2, operate -/

theorem test_add_wraps_to_zero :
    after (build 0x3000 .positive [(0, 0x1111), (1, 0xFFFF), (2, 0x0001)] [(0x3000, 0x1042)] [])
      (fun t => (t.reg 0, t.cond, t.pc)) = some (0x0000, .zero, 0x3001) := by decide

theorem test_add_destination_is_both_sources :
    after (build 0x3000 .zero [(1, 0x4001)] [(0x3000, 0x1241)] []) (fun t => (t.reg 1, t.cond)) =
      some (0x8002, .negative) := by decide

theorem test_add_imm_minus_sixteen :
    after (build 0x3000 .zero [(1, 0x000F)] [(0x3000, 0x1070)] []) (fun t => (t.reg 0, t.cond)) =
      some (0xFFFF, .negative) := by decide

theorem test_and_register :
    after (build 0x3000 .zero [(1, 0xFF0F), (2, 0x8FF1)] [(0x3000, 0x5042)] []) (fun t => (t.reg 0, t.cond)) =
      some (0x8F01, .negative) := by decide

theorem test_and_imm_sign_extends :
    after (build 0x3000 .zero [(2, 0x1234)] [(0x3000, 0x52B0)] []) (fun t => (t.reg 1, t.cond)) =
      some (0x1230, .positive) := by decide

theorem test_not_with_ignored_bits_zero :
    after (build 0x3000 .zero [(1, 0x8000)] [(0x3000, 0x9040)] []) (fun t => (t.reg 0, t.cond)) =
      some (0x7FFF, .positive) := by decide

/-! ### Section 2.3, control -/

theorem test_br_zp_taken_on_zero :
    after (build 0x3000 .zero [] [(0x3000, 0x07FE)] []) (fun t => (t.pc, t.cond)) = some (0x2FFF, .zero) := by decide

theorem test_br_n_not_taken_on_zero :
    after (build 0x3000 .zero [] [(0x3000, 0x0805)] []) (fun t => t.pc) = some 0x3001 := by decide

theorem test_jmp_with_ignored_bits :
    after (build 0x3000 .zero [(2, 0x4000), (7, 0x1111)] [(0x3000, 0xCEBF)] []) (fun t => (t.pc, t.reg 7)) =
      some (0x4000, 0x1111) := by decide

theorem test_jsr_wraps_below_zero :
    after (build 0x0000 .negative [] [(0x0000, 0x4C00)] []) (fun t => (t.reg 7, t.pc, t.cond)) =
      some (0x0001, 0xFC01, .negative) := by decide

theorem test_jsrr :
    after (build 0x3000 .zero [(2, 0x4000), (7, 0x1111)] [(0x3000, 0x4080)] []) (fun t => (t.reg 7, t.pc)) =
      some (0x3001, 0x4000) := by decide

theorem test_jsrr_r7_falls_through :
    after (build 0x3000 .zero [(7, 0x4000)] [(0x3000, 0x41C0)] []) (fun t => (t.reg 7, t.pc)) =
      some (0x3001, 0x3001) := by decide

/-! ### Section 2.4, loads, stores and LEA -/

theorem test_ld_at_the_top_of_memory :
    after (build 0xFFFF .zero [] [(0xFFFF, 0x2200), (0x0000, 0x00AA)] []) (fun t => (t.reg 1, t.pc, t.cond)) =
      some (0x00AA, 0x0000, .positive) := by decide

theorem test_ldi_reads_through_the_pointer :
    after (build 0x3000 .zero [] [(0x3000, 0xA401), (0x3002, 0x4000), (0x4000, 0x1234)] [])
      (fun t => (t.reg 2, t.cond)) = some (0x1234, .positive) := by decide

theorem test_ldi_of_kbdr_takes_the_key :
    after (build 0x3002 .zero [] [(0x3002, 0xA005), (0x3008, 0xFE02)] [0x61, 0x62])
      (fun t => (t.reg 0, t.cond, t.kbq)) = some (0x0061, .positive, [0x62]) := by decide

theorem test_ldr_address_wraps_down :
    after (build 0x3000 .zero [] [(0x3000, 0x607F), (0xFFFF, 0x8000)] []) (fun t => (t.reg 0, t.cond)) =
      some (0x8000, .negative) := by decide

theorem test_ldr_destination_is_the_base :
    after (build 0x3000 .positive [(1, 0x4000)] [(0x3000, 0x6240)] []) (fun t => (t.reg 1, t.cond)) =
      some (0x0000, .zero) := by decide

theorem test_lea_sets_cond :
    after (build 0x7F00 .zero [] [(0x7F00, 0xE2FF)] []) (fun t => (t.reg 1, t.cond)) =
      some (0x8000, .negative) := by decide

theorem test_st_overwrites_the_next_instruction :
    after (build 0x3000 .zero [(0, 0xF025)] [(0x3000, 0x3000)] []) (fun t => (t.mem, t.fetch.1)) =
      some ([(0x3000, 0x3000), (0x3001, 0xF025)], 0xF025) := by decide

theorem test_sti_stores_through_the_pointer :
    after (build 0x300C .positive [(5, 0x7DDD)] [(0x300C, 0xBA02), (0x300F, 0x3016)] [])
      (fun t => (t.cell 0x3016, t.cell 0x300F, t.cond)) = some (0x7DDD, 0x3016, .positive) := by decide

theorem test_sti_to_kbsr_is_dropped :
    after (build 0x3000 .zero [(1, 0xFFFF)] [(0x3000, 0xB201), (0x3002, 0xFE00)] [0x61]) (fun t => (t.mem, t.kbq)) =
      some ([(0x3000, 0xB201), (0x3002, 0xFE00)], [0x61]) := by decide

theorem test_str_source_is_the_base :
    after (build 0x3000 .zero [(3, 0x4000)] [(0x3000, 0x76FF)] []) (fun t => (t.cell 0x3FFF, t.reg 3)) =
      some (0x4000, 0x4000) := by decide

theorem test_str_address_wraps_up :
    after (build 0x3000 .zero [(0, 0x0077), (1, 0xFFFF)] [(0x3000, 0x7041)] []) (fun t => t.cell 0x0000) =
      some 0x0077 := by decide

/-! ### Section 2.5, TRAP and the reserved opcodes -/

theorem test_getc_takes_the_key :
    after (build 0x3004 .negative [(0, 0xFFFF)] [(0x3004, 0xF020)] [0x62])
      (fun t => (t.reg 0, t.reg 7, t.pc, t.cond, t.kbq)) = some (0x0062, 0x3005, 0x3005, .negative, []) := by decide

theorem test_getc_waits_without_a_key :
    after (build 0x3000 .zero [] [(0x3000, 0xF020)] []) (fun t => (t.reg 7, t.pc, t.wait)) =
      some (0x3001, 0x3001, .getc) := by decide

theorem test_out_writes_the_low_byte :
    after (build 0x3003 .zero [(0, 0x1261)] [(0x3003, 0xF021)] []) (fun t => (t.reg 7, t.out, t.reg 0)) =
      some (0x3004, [0x61], 0x1261) := by decide

theorem test_puts_high_bytes_are_dropped :
    after (build 0x3000 .zero [(0, 0x4000)] [(0x3000, 0xF022), (0x4000, 0x0141), (0x4001, 0x0100)] [])
      (fun t => (t.reg 7, t.out)) = some (0x3001, [0x41, 0x00]) := by decide

theorem test_puts_walks_through_the_devices :
    after (build 0x3000 .zero [(0, 0xFDFF)] [(0x3000, 0xF022), (0xFDFF, 0x0041), (0xFE01, 0x0042)] [0x6B])
      (fun t => (t.out, t.kbq)) = some ([0x41, 0x00, 0x42, 0x6B], []) := by decide

theorem test_in_prompts_and_echoes :
    after (build 0x3000 .negative [(0, 0xFFFF)] [(0x3000, 0xF023)] [0x7A]) (fun t => (t.reg 0, t.out, t.cond)) =
      some (0x007A, Config.defaultPrompt ++ [0x7A], .negative) := by decide

theorem test_in_prompts_before_it_waits :
    after (build 0x3000 .zero [] [(0x3000, 0xF023)] []) (fun t => (t.out.length, t.wait)) = some (19, .inKey) := by decide

theorem test_putsp_packed :
    after (build 0x3000 .zero [(0, 0x4000)] [(0x3000, 0xF024), (0x4000, 0x6548), (0x4001, 0x006C)] [])
      (fun t => t.out) = some [0x48, 0x65, 0x6C] := by decide

theorem test_putsp_low_byte_zero :
    after (build 0x3000 .zero [(0, 0x4000)] [(0x3000, 0xF024), (0x4000, 0x4100), (0x4001, 0x4342)] [])
      (fun t => t.out) = some [0x00, 0x41, 0x42, 0x43] := by decide

theorem test_halt_with_ignored_bits :
    after (build 0x3000 .zero [] [(0x3000, 0xFF25)] []) (fun t => (t.reg 7, t.run, t.fault, t.out)) =
      some (0x3001, .halted, none, [0x48, 0x41, 0x4C, 0x54, 0x0A]) := by decide

theorem test_unknown_trap_above_the_range :
    after (build 0x3000 .zero [] [(0x3000, 0xF026)] []) (fun t => (t.reg 7, t.pc, t.fault, t.run)) =
      some (0x3001, 0x3001, some ⟨.unknownTrapVector, 0x3000, 0xF026⟩, .halted) := by decide

theorem test_unknown_trap_below_the_range :
    after (build 0x3000 .zero [] [(0x3000, 0xF01F)] []) (fun t => t.fault) =
      some (some ⟨.unknownTrapVector, 0x3000, 0xF01F⟩) := by decide

theorem test_rti_at_the_top_of_memory :
    after (build 0xFFFF .zero [(7, 0xAAAA)] [(0xFFFF, 0x8FFF)] []) (fun t => (t.pc, t.reg 7, t.fault)) =
      some (0x0000, 0xAAAA, some ⟨.illegalOpcode, 0xFFFF, 0x8FFF⟩) := by decide

theorem test_res_records_its_word :
    after (build 0x3000 .zero [] [(0x3000, 0xDABC)] []) (fun t => (t.pc, t.fault, t.run)) =
      some (0x3001, some ⟨.illegalOpcode, 0x3000, 0xDABC⟩, .halted) := by decide

/-! ### Section 2.6, the memory interface, and the steps that are not an instruction -/

theorem test_memRead_kbdr_then_kbsr :
    ((build 0x3000 .zero [] [] [0x41, 0x42]).memRead 0xFE02).1 = 0x0041 ∧
    (((build 0x3000 .zero [] [] [0x41, 0x42]).memRead 0xFE02).2.memRead 0xFE00).1 = 0x8000 := by decide

theorem test_cell_between_the_devices_is_storage :
    (((build 0x3000 .zero [] [] []).memWrite 0xFE01 0x1234).memRead 0xFE01).1 = 0x1234 := by decide

theorem test_fetch_at_kbdr_takes_a_key :
    after (build 0xFE02 .zero [] [] [0x41]) (fun t => (t.pc, t.kbq, t.run)) = some (0xFE03, [], .running) := by decide

theorem test_fetch_at_kbsr_with_a_key_is_rti :
    after (build 0xFE00 .zero [] [] [0x41]) (fun t => t.fault) = some (some ⟨.illegalOpcode, 0xFE00, 0x8000⟩) := by decide

theorem test_halted_core_does_not_step :
    (match step { State.reset with run := .halted } with | .fault f => some f | _ => none) = some .coreHalted := by decide

theorem test_scheduled_key_ends_the_wait :
    after { State.reset with wait := .inKey, arrivals := [[0x61], []] }
      (fun t => (t.reg 0, t.wait, t.out, t.arrivals)) = some (0x0061, .none, [0x61], [[]]) := by decide

theorem test_wait_for_a_key_that_never_comes :
    (match step { State.reset with wait := .getc } with | .fault f => some f | _ => none) = some .keyNeverArrives := by decide

theorem test_loadImage_drops_words_aimed_at_the_devices :
    (match loadImage 0xFDFF [1, 2, 3, 4, 5] State.reset with | .next t => some t.mem | _ => none) =
      some [(0xFDFF, 1), (0xFE01, 3), (0xFE03, 5)] := by decide

theorem test_parseImage_is_big_endian :
    parseImage [0x30, 0x00, 0x12, 0x34, 0xAB, 0xCD] = some (0x3000, [0x1234, 0xABCD]) ∧
    parseImage [0x30, 0x00, 0x12] = none := by decide

theorem test_inspect_takes_no_key :
    (build 0x3000 .zero [] [] [0x41]).inspect 0xFE02 = some 0x0041 ∧
    (build 0x3000 .zero [] [] []).inspect 0xFE02 = none := by decide

theorem test_hostReset_keeps_the_keyboard :
    ((build 0x1234 .negative [(1, 5)] [(0x3000, 0xF025)] [0x41]).hostReset 0x4000).kbq = [0x41] ∧
    ((build 0x1234 .negative [(1, 5)] [(0x3000, 0xF025)] [0x41]).hostReset 0x4000).mem = [] ∧
    ((build 0x1234 .negative [(1, 5)] [(0x3000, 0xF025)] [0x41]).hostReset 0x4000).pc = 0x4000 := by decide

/-! ### Witnesses: each meets the hypotheses of the statement it is named after -/

/-- A running state with canonical memory, distinct devices, an ordinary PC, a key pending and keys to come. -/
def sample : State := { build 0x3000 .positive [(0, 0x4000)] [(0x4000, 0x0048), (0x4001, 0x6900)] [0x61] with
  arrivals := [[], [0x62]] }

/-- `sample` with an empty keyboard. -/
def quiet : State := build 0x3000 .positive [(0, 0x4000)] [(0x4000, 0x0048), (0x4001, 0x6900)] []

theorem witness_DecodeEncodeAgree : (Instr.trapUnknown 5 0x26).wf = true ∧ (Instr.trapUnknown 0 0x1F).wf = true := by decide

theorem witness_EveryWordDecodesToItsOneRow :
    (Instr.addImm 0 0 0).wf = true ∧ 0x107F#16 &&& (Instr.addImm 0 0 0).matchMask.2 = (Instr.addImm 0 0 0).matchMask.1 ∧
    (Instr.addImm 0 0 0).matchMask ≠ (0xF000#16, 0xF000#16) := by decide

theorem witness_IgnoredBitsChangeNothing :
    (0x1042#16 ^^^ 0x105A#16) &&& ~~~ (decode 0x1042#16).ignoredBits = 0 ∧ (decode 0x1042#16).raisesFatal = false ∧
    (0x8000#16 ^^^ 0x8FFF#16) &&& ~~~ (decode 0x8000#16).ignoredBits = 0 ∧ (decode 0x8000#16).raisesFatal = true := by decide

theorem witness_ReadReturnsTheLatestWrite :
    sample.mem.wf = true ∧ sample.isDevice 0xFE01 = false ∧ (0xFE03#16 ≠ 0xFE01#16 ∧ sample.isDevice 0xFE03 = false) := by decide

theorem witness_WritesAreStoredOrDropped :
    0xFE00#16 = sample.cfg.kbsrAddr ∧ 0xFE02#16 = sample.cfg.kbdrAddr ∧
    0xFE01#16 ≠ sample.cfg.kbsrAddr ∧ 0xFE01#16 ≠ sample.cfg.kbdrAddr ∧ sample.mem.wf = true := by decide

theorem witness_KbsrShowsWhetherAKeyIsPending :
    sample.kbq ≠ [] ∧ quiet.kbq = [] ∧ (sample.memRead sample.cfg.kbsrAddr).1 = 0x8000#16 ∧
    ((sample.memRead sample.cfg.kbdrAddr).2.memRead sample.cfg.kbsrAddr).1 = 0x0000#16 := by decide

theorem witness_ReadIsInterceptedAtTheTwoDevices :
    0xFE00#16 = sample.cfg.kbsrAddr ∧ 0xFE02#16 ≠ sample.cfg.kbsrAddr ∧ 0xFE02#16 = sample.cfg.kbdrAddr ∧
    sample.kbq = 0x61 :: [] ∧ quiet.kbq = [] ∧ 0xFE02#16 = quiet.cfg.kbdrAddr ∧ 0xFE02#16 ≠ quiet.cfg.kbsrAddr ∧
    0xFDFF#16 ≠ sample.cfg.kbsrAddr ∧ 0xFDFF#16 ≠ sample.cfg.kbdrAddr := by decide

theorem witness_CanonicalMemoriesThatReadAlikeAreEqual :
    Memory.wf [(0x3000, 0x1042)] = true ∧ Memory.wf (Memory.write [] 0x3000 0x1042) = true ∧
    ∀ a, a < 65536 → Memory.read [(0x3000, 0x1042)] a = Memory.read (Memory.write [] 0x3000 0x1042) a :=
  ⟨by decide, by decide, fun _ _ => rfl⟩

theorem witness_AddBothForms : 0x105A#16 &&& 0xF020 = 0x1000 ∧ 0x107F#16 &&& 0xF020 = 0x1020 := by decide

theorem witness_AndBothForms : 0x505A#16 &&& 0xF020 = 0x5000 ∧ 0x52BF#16 &&& 0xF020 = 0x5020 := by decide

theorem witness_NotComplements :
    0x9040#16 &&& 0xF000 = 0x9000 ∧ exec (.not 0 0) sample = .next (sample.writeResult 0 0xBFFF) ∧
    exec (.not 0 0) (sample.writeResult 0 0xBFFF) = .next ((sample.writeResult 0 0xBFFF).writeResult 0 0x4000) :=
  ⟨by decide, rfl, rfl⟩

theorem witness_BrBranchesOnItsCondition :
    0x0FFF#16 &&& 0xF000 = 0x0000 ∧ sample.cond = .positive ∧
    ¬ ((true = true ∧ sample.cond = .negative) ∨ (true = true ∧ sample.cond = .zero) ∨ (false = true ∧ sample.cond = .positive)) := by decide

theorem witness_control_rows :
    0xCEBF#16 &&& 0xF000 = 0xC000 ∧ 0x4FFF#16 &&& 0xF800 = 0x4800 ∧ 0x47FF#16 &&& 0xF800 = 0x4000 ∧
    (2 : Reg) ≠ 7 := by decide

theorem witness_load_rows :
    0x23FF#16 &&& 0xF000 = 0x2000 ∧ 0xA401#16 &&& 0xF000 = 0xA000 ∧ 0x607F#16 &&& 0xF000 = 0x6000 ∧
    0xE3FF#16 &&& 0xF000 = 0xE000 := by decide

theorem witness_store_rows :
    0x31FF#16 &&& 0xF000 = 0x3000 ∧ 0xBA02#16 &&& 0xF000 = 0xB000 ∧ 0x76FF#16 &&& 0xF000 = 0x7000 := by decide

theorem witness_StStoresPcRelative :
    sample.mem.wf = true ∧ sample.isDevice (sample.pc + sext 0x1FF#9) = false ∧
    ({ sample with pc := 0xFE01 } : State).isDevice (0xFE01 + sext 0x1FF#9) = true ∧
    0x3001#16 ≠ sample.pc + sext 0x1FF#9 := by decide

theorem witness_StiStoresThroughThePointer :
    quiet.mem.wf = true ∧ quiet.isDevice (quiet.memRead (quiet.pc + sext 1#9)).1 = false ∧
    ({ quiet with mem := [(0x3001, 0xFE00)] } : State).isDevice
      (({ quiet with mem := [(0x3001, 0xFE00)] } : State).memRead (0x3000 + sext 1#9)).1 = true := by decide

theorem witness_StrStoresBasePlusOffset :
    quiet.mem.wf = true ∧ quiet.isDevice (quiet.reg 0 + sext 0x20#6) = false ∧
    (quiet.setReg 0 0xFE00).isDevice ((quiet.setReg 0 0xFE00).reg 0 + sext 2#6) = true := by decide

theorem witness_trap_rows :
    0xFF20#16 &&& 0xF0FF = 0xF020 ∧ 0xF021#16 &&& 0xF0FF = 0xF021 ∧ 0xF022#16 &&& 0xF0FF = 0xF022 ∧
    0xF023#16 &&& 0xF0FF = 0xF023 ∧ 0xF024#16 &&& 0xF0FF = 0xF024 ∧ 0xFF25#16 &&& 0xF0FF = 0xF025 := by decide

theorem witness_GetcTakesAKeyOrWaits : sample.cfg.wf ∧ sample.kbq = 0x61 :: [] ∧ quiet.cfg.wf ∧ quiet.kbq = [] := by decide

theorem witness_PutsRunsItsLoopToTheEnd : sample.cfg.wf := by decide

theorem witness_InPromptsAndEchoes : sample.cfg.wf ∧ sample.kbq = 0x61 :: [] ∧ quiet.cfg.wf ∧ quiet.kbq = [] := by decide

theorem witness_PutspRunsItsLoopToTheEnd : quiet.cfg.wf := by decide

theorem witness_UnknownTrapIsFatal :
    (0xF01F#16 &&& 0xF000 = 0xF000 ∧ (0xF01F#16).toNat % 256 < 0x20) ∧
    (0xF026#16 &&& 0xF000 = 0xF000 ∧ 0x25 < (0xF026#16).toNat % 256) := by decide

theorem witness_ReservedOpcodesAreFatal : 0x8FFF#16 &&& 0xF000 = 0x8000 ∧ 0xDABC#16 &&& 0xF000 = 0xD000 := by decide

theorem witness_CondIsWrittenBySevenAndReadByBr :
    exec (.lea 1 0) sample = .next (sample.writeResult 1 0x3000) ∧ (Instr.lea 1 0).setsCond = true ∧
    exec (.jmp 0) sample = .next (sample.setPc 0x4000) ∧ (Instr.jmp 0).setsCond = false ∧
    ∀ n z p off, Instr.jmp 0 ≠ .br n z p off := ⟨rfl, rfl, rfl, rfl, fun _ _ _ _ => nofun⟩

theorem witness_RegistersReadAndWrittenAreTheTables :
    exec (.jsrr 0) sample = .next (sample.link.setPc 0x4000) ∧ (7 : Reg) ∉ (Instr.jsrr 0).readsRegs :=
  ⟨rfl, by decide⟩

theorem witness_PcAfterEachInstruction :
    exec (.jmp 0) sample = .next (sample.setPc 0x4000) ∧
    exec (.jsrr 7) (sample.setReg 7 0x4000) = .next ((sample.setReg 7 0x4000).link.setPc 0x3000) ∧
    exec (.jsrr 0) sample = .next (sample.link.setPc 0x4000) ∧
    exec (.jsr 0x400) sample = .next (sample.link.setPc 0x2C00) ∧
    exec (.br false false true 0x1FF) sample = .next (sample.setPc 0x2FFF) ∧
    exec (.br true true false 0x1FF) sample = .next sample := ⟨rfl, rfl, rfl, rfl, rfl, rfl⟩

theorem witness_RunIsATwoStateMachine :
    step { quiet with mem := [(0x3000, 0xF025)] } =
      .next { (({ quiet with mem := [(0x3000, 0xF025)], pc := 0x3001 } : State).link) with
        run := .halted, out := Config.defaultNotice } ∧
    exec .trapHalt sample = .next ((sample.link.consoleOut sample.cfg.haltNotice).setRun .halted) := ⟨rfl, rfl⟩

theorem witness_WhatAFatalErrorAndATrapChange :
    exec .trapOut sample = .next (sample.link.consoleOut [0x00]) ∧ Instr.trapOut.isTrap = true ∧
    Instr.trapOut.raisesFatal = false ∧ (Instr.rti 0).raisesFatal = true := ⟨rfl, rfl, rfl, rfl⟩

theorem witness_OnlyStoresChangeMemory :
    exec (.jmp 0) sample = .next (sample.setPc 0x4000) ∧ (Instr.jmp 0).stores = false := ⟨rfl, rfl⟩

theorem witness_OutIsOnlyAppendedTo :
    exec .trapOut sample = .next (sample.link.consoleOut [0x00]) ∧ step quiet = .next (quiet.setPc 0x3001) := ⟨rfl, rfl⟩

theorem witness_HaltStopsTheCore : quiet.fault = none := rfl

theorem witness_KeysAreTakenFromTheHeadOnly :
    exec .trapGetc sample = .next (sample.link.completeKeyWait .getc) := rfl

theorem witness_StepRunsTheDecodedInstruction :
    sample.run = .running ∧ sample.wait = .none ∧
    ({ sample with kbq := sample.kbq ++ sample.arrivals.headD [], arrivals := sample.arrivals.tail } : State).isDevice
      0x3000 = false ∧ decode (sample.cell 0x3000) = .br false false false 0 := by decide

theorem witness_FetchFromADeviceAddress :
    ({ quiet with pc := 0xFE00 } : State).run = .running ∧ ({ quiet with pc := 0xFE00 } : State).wait = .none ∧
    ({ quiet with pc := 0xFE00 } : State).arrivals = [] ∧ quiet.cfg.wf ∧ quiet.kbq = [] ∧
    0xFE00#16 = quiet.cfg.kbsrAddr ∧ 0xFE02#16 = quiet.cfg.kbdrAddr ∧
    ({ sample with pc := 0xFE02, arrivals := [] } : State).kbq = 0x61 :: [] := by decide

theorem witness_HaltedIsTerminal :
    ({ sample with run := .halted } : State).run = .halted ∧
    Sys2Proof.core.run 0 ({ sample with run := .halted } : State) = .next { sample with run := .halted } := ⟨rfl, rfl⟩

theorem witness_KeyWaitCompletes :
    ({ sample with wait := .inKey } : State).run = .running ∧ ({ sample with wait := .inKey } : State).wait ≠ .none ∧
    sample.cfg.wf ∧ sample.kbq ++ sample.arrivals.headD [] = 0x61 :: [] := by decide

theorem witness_KeyWaitEndsWhenTheKeyComes :
    ({ quiet with wait := .getc, arrivals := [[], [], [0x61], []] } : State).run = .running ∧
    ({ quiet with wait := .getc, arrivals := [[], [], [0x61], []] } : State).wait ≠ .none ∧ quiet.cfg.wf ∧ quiet.kbq = [] ∧
    ({ quiet with wait := .getc, arrivals := [[], [], [0x61], []] } : State).arrivals =
      List.replicate 2 [] ++ [0x61] :: [[]] := by decide

theorem witness_SuspensionCannotBeSeen :
    quiet.cfg.wf ∧ quiet.wait = .none ∧ quiet.kbq = [] ∧
    exec .trapGetc quiet = .next (quiet.link.setWait .getc) ∧
    exec .trapGetc (quiet.keyArrives 0x61) = .next ((quiet.keyArrives 0x61).link.completeKeyWait .getc) ∧
    exec .trapIn quiet = .next ((quiet.link.consoleOut quiet.cfg.inPrompt).setWait .inKey) ∧
    exec .trapIn (quiet.keyArrives 0x61) =
      .next (((quiet.keyArrives 0x61).link.consoleOut quiet.cfg.inPrompt).completeKeyWait .inKey) :=
  ⟨by decide, rfl, rfl, rfl, rfl, rfl, rfl⟩

theorem witness_EveryEnabledStepCompletes : sample.run = .running ∧ sample.wait = .none ∧ sample.cfg.wf := by decide

theorem witness_WhenAStepStops :
    sample.cfg.wf ∧ ({ quiet with run := .halted } : State).run = .halted ∧
    ({ quiet with wait := .getc } : State).wait ≠ .none ∧ quiet.kbq ++ quiet.arrivals.headD [] = [] ∧
    quiet.arrivals.tail = [] ∧ ({ quiet with wait := .getc, arrivals := [[], [0x61]] } : State).arrivals.tail ≠ [] := by decide

theorem witness_StoredWordIsFetchedAndRun :
    (Instr.jmp 7).wf = true ∧ quiet.mem.wf = true ∧ quiet.isDevice quiet.pc = false ∧ quiet.arrivals = [] := by decide

theorem witness_StoreToTheNextInstructionIsFetched :
    quiet.mem.wf = true ∧ quiet.isDevice quiet.pc = false ∧
    exec (.st 0 0) quiet = .next (quiet.memWrite 0x3000 0x4000) := ⟨by decide, by decide, rfl⟩

theorem witness_OrdinaryStringsAreWritten :
    (∀ k, (h : k < [0x0048#16, 0x6900#16].length) → quiet.isDevice (quiet.reg 0 + BitVec.ofNat 16 k) = false ∧
      quiet.cell (quiet.reg 0 + BitVec.ofNat 16 k) = [0x0048#16, 0x6900#16][k] ∧ [0x0048#16, 0x6900#16][k] ≠ 0) ∧
    quiet.isDevice (quiet.reg 0 + BitVec.ofNat 16 2) = false ∧ quiet.cell (quiet.reg 0 + BitVec.ofNat 16 2) = 0 := by
  have all : ∀ k : Fin [0x0048#16, 0x6900#16].length,
      quiet.isDevice (quiet.reg 0 + BitVec.ofNat 16 k.val) = false ∧
      quiet.cell (quiet.reg 0 + BitVec.ofNat 16 k.val) = [0x0048#16, 0x6900#16][k] ∧ [0x0048#16, 0x6900#16][k] ≠ 0 := by
    decide
  exact ⟨fun k h => all ⟨k, h⟩, by decide, by decide⟩

theorem witness_ResetMeetsTheInvariant : Config.standard.wf := by decide

theorem witness_StepKeepsTheInvariant : quiet.Inv ∧ step quiet = .next (quiet.setPc 0x3001) := by
  refine ⟨⟨by decide, fun a h => ?_, by decide, fun h => absurd rfl h, fun h => absurd rfl h⟩, rfl⟩
  rcases (quiet.isDevice_iff a).mp h with rfl | rfl <;> decide

theorem witness_StepKeepsTheFaultRecordTrue :
    quiet.faultRecordTrue ∧ step { quiet with mem := [(0x3000, 0xDABC)] } =
      .next { quiet with mem := [(0x3000, 0xDABC)], pc := 0x3001, run := .halted,
                         fault := some ⟨.illegalOpcode, 0x3000, 0xDABC⟩ } :=
  ⟨(fun _ h => by cases h), rfl⟩

theorem witness_LoadImageWritesTheWords :
    (0xFDFF#16).toNat + [1#16, 2#16, 3#16].length ≤ 65536 ∧ sample.mem.wf = true ∧
    sample.isDevice (0xFDFF + BitVec.ofNat 16 2) = false ∧ 65536 < (0xFFFF#16).toNat + [1#16, 2#16].length := by decide

theorem witness_ExitStatusTellsHowTheRunEnded :
    ({ sample with run := .halted, fault := some ⟨.illegalOpcode, 0x3000, 0x8000⟩ } : State).run = .halted ∧
    ({ sample with run := .halted, fault := some ⟨.unknownTrapVector, 0x3000, 0xF026⟩ } : State).fault =
      some ⟨.unknownTrapVector, 0x3000, 0xF026⟩ := by decide

end Sys2Proof.Tests
end

section
/-! The values of the instruction fields and of their extensions (spec/00_scope.md R10, R13), and the two statements about
them. -/

namespace Sys2Proof

/-- R10: a field of `len` bits from bit `start` is those bits of the word as an unsigned integer. -/
theorem toNat_wordField (w : Word) (start len : Nat) :
    (w.extractLsb' start len).toNat = w.toNat / 2 ^ start % 2 ^ len := by
  rw [BitVec.extractLsb'_toNat, Nat.shiftRight_eq_div_pow]

theorem val_regField (w : Word) (lo : Nat) : (regField w lo).val = w.toNat / 2 ^ lo % 8 := toNat_wordField w lo 3

/-- A field that starts at bit 0, as the immediates, the offsets and the trap vector do. -/
theorem toNat_lowField (w : Word) (len : Nat) : (w.extractLsb' 0 len).toNat = w.toNat % 2 ^ len := by
  rw [toNat_wordField, pow_zero, Nat.div_one]

/-- No remainder is left: the opcode is the top of the word. -/
theorem toNat_opcodeField (w : Word) : (opcodeField w).toNat = w.toNat / 4096 := by
  have top : w.toNat / 2 ^ 12 < 2 ^ 4 := by omega
  exact (toNat_wordField w 12 4).trans (Nat.mod_eq_of_lt top)

/-- R13 for every width that fits a word; `f.toNat < 2 ^ (n - 1)` says that the top bit is 0. -/
theorem toNat_sext {n : Nat} (hn : n ≤ 16) (f : BitVec n) :
    (sext f).toNat = if f.toNat < 2 ^ (n - 1) then f.toNat else f.toNat + (65536 - 2 ^ n) := by
  have fits : f.toNat < 2 ^ 16 := f.isLt.trans_le (Nat.pow_le_pow_right two_pos hn)
  rw [sext, BitVec.toNat_signExtend, BitVec.toNat_setWidth, Nat.mod_eq_of_lt fits, BitVec.msb_eq_decide]
  by_cases top : f.toNat < 2 ^ (n - 1)
  · simp [top]
  · simp [top, Nat.le_of_not_lt top]

theorem toNat_zext8 (b : Byte) : (Machine.zext8 b).toNat = b.toNat :=
  BitVec.toNat_setWidth_of_le (by decide)

/-- Settles O2: each field function extracts its bits, and extraction is division and remainder. -/
theorem fieldsAreTheNamedBits : Obligations.FieldsAreTheNamedBits := fun w =>
  ⟨toNat_opcodeField w, val_regField w 9, val_regField w 6, (val_regField w 0).trans (by rw [pow_zero, Nat.div_one]),
    toNat_lowField w 5, toNat_lowField w 6, toNat_lowField w 9, toNat_lowField w 11, toNat_lowField w 8⟩

/-- Settles O3: the value of `sext` at any width, taken at the four widths of the fields. -/
theorem signExtensionOfFields : Obligations.SignExtensionOfFields :=
  ⟨toNat_sext (by decide), toNat_sext (by decide), toNat_sext (by decide), toNat_sext (by decide), toNat_zext8⟩

end Sys2Proof
end

section
/-! Every instruction's effect is a sequence of primitive updates, each allowed by R23, R30, R32, R33 and R74, and what
the instruction may read decides which (`exec_lockstep`). What an instruction keeps and what it does not read follow by
induction over such a sequence. -/

namespace Sys2Proof

/-- The instructions after which the core is halted (R32). -/
def Instr.halts (i : Instr) : Bool := i == .trapHalt || i.raisesFatal

theorem Instr.halts_iff (i : Instr) : i.halts = true ↔ i = .trapHalt ∨ i.raisesFatal = true := by
  simp [Instr.halts]

end Sys2Proof

namespace Sys2Proof.Machine

/-! ### Primitive updates -/

/-- The updates that every instruction's effect is made of. -/
inductive Update where
  | pc (target : Word)
  | reg (r : Reg) (v : Word)
  | result (dr : Reg) (v : Word)
  | store (a v : Word)
  | takeKey
  | draw
  | out (bs : List Byte)
  | wait (w : Wait)
  | halt
  | fatal (kind : FaultKind) (word : Word)

/-- An update as one of the model's operations on the state. -/
def Update.apply (u : Update) (s : State) : State :=
  match u with
  | .pc target => s.setPc target
  | .reg r v => s.setReg r v
  | .result dr v => s.writeResult dr v
  | .store a v => { s with mem := if s.isDevice a then s.mem else s.mem.write a.toNat v }
  | .takeKey => { s with kbq := s.kbq.tail }
  | .draw => { s with draws := s.draws + 1 }
  | .out bs => s.consoleOut bs
  | .wait w => s.setWait w
  | .halt => s.setRun .halted
  | .fatal kind word => s.raiseFatal kind word

theorem Update.store_apply (s : State) (a v : Word) : (Update.store a v).apply s = s.memWrite a v := by
  simp only [Update.apply, State.memWrite]
  split <;> rfl

/-- The updates an instruction may make: R23's column "writes" for the registers, R30 for COND, R74 for memory, R32 for
RUN, R33 for FAULT; one that waits (R182) does not halt. -/
def Update.allowedIn (i : Instr) : Update → Prop
  | .reg r _ => r ∈ i.writesRegs
  | .result dr _ => i.setsCond = true ∧ i.writesRegs = [dr]
  | .wait _ => i.halts = false
  | .halt => i.halts = true
  | .fatal _ _ => i.raisesFatal = true
  | .store _ _ => i.stores = true
  | .pc _ | .takeKey | .draw | .out _ => True

/-! ### Two states in lockstep -/

/-- The states agree in what every instruction may read: PC, the parameters, memory and the keyboard. -/
structure SameView (s s' : State) : Prop where
  pc : s'.pc = s.pc
  cfg : s'.cfg = s.cfg
  mem : s'.mem = s.mem
  kbq : s'.kbq = s.kbq
  draws : s'.draws = s.draws

theorem SameView.isDevice {s s' : State} (view : SameView s s') (a : Word) : s'.isDevice a = s.isDevice a := by
  rw [State.isDevice, State.isDevice, view.cfg]

theorem SameView.apply {s s' : State} (view : SameView s s') (u : Update) : SameView (u.apply s) (u.apply s') := by
  have device := view.isDevice
  obtain ⟨hpc, hcfg, hmem, hkbq, hdraws⟩ := view
  cases u with
  | pc target => exact ⟨rfl, hcfg, hmem, hkbq, hdraws⟩
  | store a v =>
    have stored : ((Update.store a v).apply s').mem = ((Update.store a v).apply s).mem := by
      simp only [Update.apply, device, hmem]
    exact ⟨hpc, hcfg, stored, hkbq, hdraws⟩
  | takeKey => exact ⟨hpc, hcfg, hmem, congrArg List.tail hkbq, hdraws⟩
  | draw => exact ⟨hpc, hcfg, hmem, hkbq, congrArg (· + 1) hdraws⟩
  | _ => exact ⟨hpc, hcfg, hmem, hkbq, hdraws⟩

/-- From the states `s` and `s'`, which agree in what may be read, the same updates, each allowed in `i`, lead to the
two further states. -/
inductive Lockstep (i : Instr) (s s' : State) : State → State → Prop where
  | start (view : SameView s s') : Lockstep i s s' s s'
  | tail {t t' : State} (l : Lockstep i s s' t t') (u : Update) (ok : u.allowedIn i) :
      Lockstep i s s' (u.apply t) (u.apply t')

/-- `R` holds on after any update that is allowed in `i`, made on both sides. -/
def Respects (i : Instr) (R : State → State → Prop) : Prop :=
  ∀ (u : Update) (a b : State), u.allowedIn i → R a b → R (u.apply a) (u.apply b)

namespace Lockstep

variable {i : Instr} {s s' t t' : State}

theorem related {R : State → State → Prop} (l : Lockstep i s s' t t') (respects : Respects i R) (h : R s s') :
    R t t' := by
  induction l with
  | start => exact h
  | tail _ u ok ih => exact respects u _ _ ok ih

theorem view (l : Lockstep i s s' t t') : SameView t t' := by
  induction l with
  | start view => exact view
  | tail _ u _ ih => exact ih.apply u

/-! #### The operations of the model, each a few updates -/

theorem jump (l : Lockstep i s s' t t') {p p' : Word} (hp : p' = p) : Lockstep i s s' (t.setPc p) (t'.setPc p') :=
  hp ▸ l.tail (.pc p) trivial

theorem result (l : Lockstep i s s' t t') {dr : Reg} {v v' : Word} (hc : i.setsCond = true) (hw : i.writesRegs = [dr])
    (hv : v' = v) : Lockstep i s s' (t.writeResult dr v) (t'.writeResult dr v') :=
  hv ▸ l.tail (.result dr v) ⟨hc, hw⟩

theorem store (l : Lockstep i s s' t t') {a a' v v' : Word} (hs : i.stores = true) (ha : a' = a) (hv : v' = v) :
    Lockstep i s s' (t.memWrite a v) (t'.memWrite a' v') := by
  subst ha hv
  have stored := l.tail (.store a' v') hs
  rwa [Update.store_apply, Update.store_apply] at stored

theorem print (l : Lockstep i s s' t t') {bs bs' : List Byte} (hb : bs' = bs) :
    Lockstep i s s' (t.consoleOut bs) (t'.consoleOut bs') :=
  hb ▸ l.tail (.out bs) trivial

theorem link (l : Lockstep i s s' t t') (h7 : 7 ∈ i.writesRegs) : Lockstep i s s' t.link t'.link := by
  have linked : t'.link = t'.setReg 7 t.pc := by rw [State.link, l.view.pc]
  rw [linked]
  exact l.tail (.reg 7 t.pc) h7

/-- A read gives the same word on both sides and takes a key, or draws a word, on both or on neither. -/
theorem read (l : Lockstep i s s' t t') (a : Word) :
    (t'.memRead a).1 = (t.memRead a).1 ∧ Lockstep i s s' (t.memRead a).2 (t'.memRead a).2 := by
  have v := l.view
  rcases t.memRead_cases a with ⟨hs, e⟩ | ⟨hs, hd, key, rest, hq, e⟩ | ⟨hs, hd, hq, e⟩ | ⟨ho, e⟩
  · have value : t'.kbsrValue = t.kbsrValue := by
      rw [State.kbsrValue, State.keyPending, v.kbq, State.kbsrValue, State.keyPending]
    rw [e, State.memRead_kbsr (v.cfg ▸ hs)]
    exact ⟨value, l⟩
  · rw [e, State.memRead_kbdr (v.cfg ▸ hs) (v.cfg ▸ hd), State.readKbdr_pending (v.kbq.trans hq)]
    have taken := l.tail .takeKey trivial
    simp only [Update.apply, v.kbq, hq, List.tail_cons] at taken
    exact ⟨rfl, taken⟩
  · rw [e, State.memRead_kbdr (v.cfg ▸ hs) (v.cfg ▸ hd), State.readKbdr_empty (v.kbq.trans hq)]
    exact ⟨congrArg Config.freeWord v.draws, l.tail .draw trivial⟩
  · rw [e, State.memRead_ordinary ((v.isDevice a).trans ho), State.cell, v.mem]
    exact ⟨rfl, l⟩

theorem load (l : Lockstep i s s' t t') {dr : Reg} {a a' : Word} (hc : i.setsCond = true) (hw : i.writesRegs = [dr])
    (ha : a' = a) : Lockstep i s s' (t.loadTo dr a) (t'.loadTo dr a') := by
  subst ha
  obtain ⟨value, after⟩ := l.read a'
  exact after.result hc hw value

theorem pcRelative (l : Lockstep i s s' t t') (offset9 : BitVec 9) : t'.pcRelative offset9 = t.pcRelative offset9 := by
  rw [State.pcRelative, State.pcRelative, l.view.pc]

theorem indirect (l : Lockstep i s s' t t') (offset9 : BitVec 9) :
    (t'.indirect offset9).1 = (t.indirect offset9).1 ∧
    Lockstep i s s' (t.indirect offset9).2 (t'.indirect offset9).2 := by
  rw [State.indirect, State.indirect, l.pcRelative]
  exact l.read _

theorem fetch (l : Lockstep i s s' t t') :
    t'.fetch.1 = t.fetch.1 ∧ Lockstep i s s' t.fetch.2 t'.fetch.2 := by
  obtain ⟨value, after⟩ := l.read t.pc
  simp only [State.fetch, l.view.pc]
  exact ⟨value, after.jump rfl⟩

theorem completeKeyWait (l : Lockstep i s s' t t') (h0 : 0 ∈ i.writesRegs) (hh : i.halts = false) (w : Wait) :
    Lockstep i s s' (t.completeKeyWait w) (t'.completeKeyWait w) := by
  obtain ⟨value, after⟩ := l.read t.cfg.kbdrAddr
  have finish {u u' : State} (k : Lockstep i s s' u u') {v v' : Word} (hv : v' = v) :
      Lockstep i s s' ((u.setReg 0 v).setWait .none) ((u'.setReg 0 v').setWait .none) :=
    hv ▸ (k.tail (.reg 0 v) h0).tail (.wait .none) hh
  unfold State.completeKeyWait
  rw [l.view.cfg]
  split
  · exact finish (after.print (by rw [value])) value
  · exact finish after value

theorem awaitKey (l : Lockstep i s s' t t') (h0 : 0 ∈ i.writesRegs) (hh : i.halts = false) (w : Wait) :
    Lockstep i s s' (t.awaitKey w) (t'.awaitKey w) := by
  rcases t.awaitKey_cases w with ⟨hq, e⟩ | ⟨hq, e⟩
  · rw [e, State.awaitKey_pending (l.view.kbq ▸ hq)]
    exact l.completeKeyWait h0 hh w
  · rw [e, State.awaitKey_empty (l.view.kbq.trans hq)]
    exact l.tail (.wait w) hh

theorem walkString {chars : Word → List Byte} {n : Nat} {a : Word} {z : State} (l : Lockstep i s s' t t')
    (h : State.walkString chars n a t = some z) :
    ∃ z', State.walkString chars n a t' = some z' ∧ Lockstep i s s' z z' := by
  induction n generalizing a t t' with
  | zero => cases h
  | succ n ih =>
    obtain ⟨value, after⟩ := l.read a
    rw [State.walkString_succ] at h ⊢
    rw [value]
    split at h
    · obtain rfl := Option.some.inj h
      exact ⟨_, if_pos ‹_›, after⟩
    · rw [if_neg ‹_›]
      exact ih (after.print rfl) h

theorem writeString {chars : Word → List Byte} {z : State} (l : Lockstep i s s' t t') (h0 : t'.reg 0 = t.reg 0)
    (h : t.writeString chars = .next z) : ∃ z', t'.writeString chars = .next z' ∧ Lockstep i s s' z z' := by
  rw [State.writeString_next_iff] at h
  obtain ⟨z', ended, last⟩ := l.walkString h
  refine ⟨z', ?_, last⟩
  rwa [State.writeString_next_iff, State.walkFuel, l.view.kbq, h0]

end Lockstep

/-! ### Every instruction is a sequence of its allowed updates, and what it reads decides which -/

/-- The states agree in everything that `i` may read: the registers of R23's column "reads", and COND if it is BR. -/
structure Agree (i : Instr) (s s' : State) : Prop where
  view : SameView s s'
  regs : ∀ r ∈ i.readsRegs, s'.reg r = s.reg r
  cond : ∀ n z p off, i = .br n z p off → s'.cond = s.cond

theorem Agree.refl (i : Instr) (s : State) : Agree i s s :=
  ⟨⟨rfl, rfl, rfl, rfl, rfl⟩, fun _ _ => rfl, fun _ _ _ _ _ => rfl⟩

/-- Where both sides have a next state, the answer asked for is known. -/
theorem lockstep_of_next {i : Instr} {s s' t u u' : State} (h : exec i s = .next t) (e : exec i s = .next u)
    (e' : exec i s' = .next u') (l : Lockstep i s s' u u') : ∃ t', exec i s' = .next t' ∧ Lockstep i s s' t t' := by
  obtain rfl := Host.Outcome.next.inj (e.symm.trans h)
  exact ⟨u', e', l⟩

/-- What an instruction does from two states that agree in what it may read is one sequence of updates, each allowed in
it. Of PUTS and PUTSP this needs that the walk ends, hence the next state in the hypothesis. -/
theorem exec_lockstep {i : Instr} {s s' t : State} (agree : Agree i s s') (h : exec i s = .next t) :
    ∃ t', exec i s' = .next t' ∧ Lockstep i s s' t t' := by
  have l : Lockstep i s s' s s' := .start agree.view
  have regs := agree.regs
  cases i with
  | addReg dr sr1 sr2 =>
    have first : s'.reg sr1 = s.reg sr1 := regs sr1 (.head _)
    have second : s'.reg sr2 = s.reg sr2 := regs sr2 (.tail _ (.head _))
    exact lockstep_of_next h rfl rfl (l.result rfl rfl (by rw [first, second]))
  | addImm dr sr1 imm5 => exact lockstep_of_next h rfl rfl (l.result rfl rfl (by rw [regs sr1 (.head _)]))
  | andReg dr sr1 sr2 =>
    have first : s'.reg sr1 = s.reg sr1 := regs sr1 (.head _)
    have second : s'.reg sr2 = s.reg sr2 := regs sr2 (.tail _ (.head _))
    exact lockstep_of_next h rfl rfl (l.result rfl rfl (by rw [first, second]))
  | andImm dr sr1 imm5 => exact lockstep_of_next h rfl rfl (l.result rfl rfl (by rw [regs sr1 (.head _)]))
  | not dr sr => exact lockstep_of_next h rfl rfl (l.result rfl rfl (by rw [regs sr (.head _)]))
  | br n z p off =>
    refine lockstep_of_next h rfl rfl ?_
    rw [agree.cond n z p off rfl]
    split
    · exact l.jump (l.pcRelative off)
    · exact l
  | jmp baseR => exact lockstep_of_next h rfl rfl (l.jump (regs baseR (.head _)))
  | jsr off =>
    have target : s'.pcRelativeLong off = s.pcRelativeLong off := by
      rw [State.pcRelativeLong, State.pcRelativeLong, agree.view.pc]
    exact lockstep_of_next h rfl rfl ((l.link (.head _)).jump target)
  | jsrr baseR =>
    have target : s'.link.reg baseR = s.link.reg baseR := by
      rw [State.reg_link, State.reg_link, agree.view.pc, regs baseR (.head _)]
    exact lockstep_of_next h rfl rfl ((l.link (.head _)).jump target)
  | ld dr off => exact lockstep_of_next h rfl rfl (l.load rfl rfl (l.pcRelative off))
  | ldi dr off =>
    obtain ⟨pointer, after⟩ := l.indirect off
    exact lockstep_of_next h rfl rfl (after.load rfl rfl pointer)
  | ldr dr baseR off =>
    have address : s'.baseOffset baseR off = s.baseOffset baseR off := by
      rw [State.baseOffset, State.baseOffset, regs baseR (.head _)]
    exact lockstep_of_next h rfl rfl (l.load rfl rfl address)
  | lea dr off => exact lockstep_of_next h rfl rfl (l.result rfl rfl (l.pcRelative off))
  | st sr off => exact lockstep_of_next h rfl rfl (l.store rfl (l.pcRelative off) (regs sr (.head _)))
  | sti sr off =>
    obtain ⟨pointer, after⟩ := l.indirect off
    exact lockstep_of_next h rfl rfl (after.store rfl pointer (regs sr (.head _)))
  | str sr baseR off =>
    have address : s'.baseOffset baseR off = s.baseOffset baseR off := by
      rw [State.baseOffset, State.baseOffset, regs baseR (.tail _ (.head _))]
    exact lockstep_of_next h rfl rfl (l.store rfl address (regs sr (.head _)))
  | trapGetc => exact lockstep_of_next h rfl rfl ((l.link (.head _)).awaitKey (by decide) rfl .getc)
  | trapOut =>
    have character : [lowByte (s'.link.reg 0)] = [lowByte (s.link.reg 0)] := by
      rw [State.link_reg_zero, State.link_reg_zero, regs 0 (.head _)]
    exact lockstep_of_next h rfl rfl ((l.link (.head _)).print character)
  | trapPuts => exact (l.link (.head _)).writeString (by simp [regs 0 (.head _)]) h
  | trapIn =>
    have prompted := (l.link (.head _)).print (congrArg Config.inPrompt agree.view.cfg)
    exact lockstep_of_next h rfl rfl (prompted.awaitKey (by decide) rfl .inKey)
  | trapPutsp => exact (l.link (.head _)).writeString (by simp [regs 0 (.head _)]) h
  | trapHalt =>
    have noticed := (l.link (.head _)).print (congrArg Config.haltNotice agree.view.cfg)
    exact lockstep_of_next h rfl rfl (noticed.tail .halt rfl)
  | trapUnknown ignored v => exact lockstep_of_next h rfl rfl ((l.link (.head _)).tail (.fatal _ _) rfl)
  | rti ignored => exact lockstep_of_next h rfl rfl (l.tail (.fatal _ _) rfl)
  | res ignored => exact lockstep_of_next h rfl rfl (l.tail (.fatal _ _) rfl)

end Sys2Proof.Machine
end

section
/-! What every instruction keeps of each part of the state, and what no instruction reads. -/

namespace Sys2Proof.Machine

/-! ### What an instruction keeps -/

/-- Whatever each allowed update keeps, the instruction keeps. -/
theorem exec_keeps {i : Instr} {s t : State} {P : State → Prop} (h : exec i s = .next t)
    (kept : ∀ (u : Update) (a : State), u.allowedIn i → P a → P (u.apply a)) (hs : P s) : P t := by
  obtain ⟨_, _, l⟩ := exec_lockstep (Agree.refl i s) h
  exact l.related (R := fun a _ => P a) (fun u a _ => kept u a) hs

/-- Whatever relation each allowed update keeps between two states, the instruction keeps. -/
theorem exec_related {i : Instr} {s s' t : State} {R : State → State → Prop} (h : exec i s = .next t)
    (agree : Agree i s s') (respects : Respects i R) (hs : R s s') : ∃ t', exec i s' = .next t' ∧ R t t' := by
  obtain ⟨t', h', l⟩ := exec_lockstep agree h
  exact ⟨t', h', l.related respects hs⟩

section
variable {i : Instr} {s t : State} (h : exec i s = .next t)
include h

theorem exec_cond_kept (hc : i.setsCond = false) : t.cond = s.cond := by
  refine exec_keeps (P := fun a => a.cond = s.cond) h (fun u a ok ha => ?_) rfl
  cases u with
  | result dr v => exact absurd (hc.symm.trans ok.1) Bool.false_ne_true
  | _ => exact ha

theorem exec_regs_kept : regsKeptBut i.writesRegs s t := by
  refine exec_keeps h (fun u a ok ha r hr => ?_) (fun _ _ => rfl)
  cases u with
  | reg q v => exact (a.setReg_reg_of_ne v (by rintro rfl; exact hr ok)).trans (ha r hr)
  | result dr v =>
    have other : r ≠ dr := by rintro rfl; exact hr (by rw [ok.2]; exact .head _)
    exact (a.setReg_reg_of_ne v other).trans (ha r hr)
  | _ => exact ha r hr

theorem exec_run_kept (hh : i.halts = false) : t.run = s.run := by
  refine exec_keeps (P := fun a => a.run = s.run) h (fun u a ok ha => ?_) rfl
  cases u with
  | halt => exact absurd (hh.symm.trans ok) Bool.false_ne_true
  | fatal kind word => exact absurd (hh.symm.trans (i.halts_iff.mpr (.inr ok))) Bool.false_ne_true
  | _ => exact ha

theorem exec_fault_kept (hf : i.raisesFatal = false) : t.fault = s.fault := by
  refine exec_keeps (P := fun a => a.fault = s.fault) h (fun u a ok ha => ?_) rfl
  cases u with
  | fatal kind word => exact absurd (hf.symm.trans ok) Bool.false_ne_true
  | _ => exact ha

theorem exec_wait_kept (hh : i.halts = true) : t.wait = s.wait := by
  refine exec_keeps (P := fun a => a.wait = s.wait) h (fun u a ok ha => ?_) rfl
  cases u with
  | wait w => exact absurd (ok.symm.trans hh) Bool.false_ne_true
  | _ => exact ha

theorem exec_host_kept : hostKept s t := by
  refine exec_keeps h (fun u a _ ha => ?_) ⟨rfl, rfl⟩
  cases u <;> exact ha

theorem exec_kbq_suffix : ∃ taken, s.kbq = taken ++ t.kbq := by
  refine exec_keeps (P := fun a => ∃ taken, s.kbq = taken ++ a.kbq) h (fun u a _ ha => ?_) ⟨[], rfl⟩
  obtain ⟨taken, hs⟩ := ha
  cases u with
  | takeKey => exact ⟨taken ++ a.kbq.take 1, by simp [Update.apply, hs, ← List.drop_one]⟩
  | _ => exact ⟨taken, hs⟩

theorem exec_halts_run (hh : i.halts = true) : t.run = .halted := by
  cases i with
  | trapHalt | trapUnknown _ _ | rti _ | res _ => obtain rfl := Host.Outcome.next.inj h; rfl
  | _ => cases hh

/-- R32: where RUN stands after an instruction. -/
theorem exec_halted_iff : t.run = .halted ↔ s.run = .halted ∨ i = .trapHalt ∨ i.raisesFatal = true := by
  rw [← i.halts_iff]
  cases hh : i.halts with
  | true => simp [exec_halts_run h hh]
  | false => simp [exec_run_kept h hh]

/-- R30: each of the seven instructions ends by writing a result to its one destination register. -/
theorem exec_writes_result (hc : i.setsCond = true) :
    ∃ (dr : Reg) (u : State) (v : Word), i.writesRegs = [dr] ∧ t = u.writeResult dr v := by
  cases i with
  | addReg dr _ _ | addImm dr _ _ | andReg dr _ _ | andImm dr _ _ | not dr _
  | ld dr _ | ldi dr _ | ldr dr _ _ | lea dr _ =>
    exact ⟨dr, _, _, rfl, (Host.Outcome.next.inj h).symm⟩
  | _ => cases hc

end

/-! ### What no instruction reads -/

/-- The states are equal but for COND. -/
def SameButCond (a b : State) : Prop := b = { a with cond := b.cond }

/-- The states are equal but for RUN. -/
def SameButRun (a b : State) : Prop := b = a.setRun b.run

/-- The states are equal but for the register `r`. -/
def SameButReg (r : Reg) (a b : State) : Prop := b = a.setReg r (b.reg r)

/-- The states are equal but for what stood in OUT at first, `o` on one side and `o'` on the other. -/
def SameButOut (o o' : List Byte) (a b : State) : Prop := ∃ bs, a.out = o ++ bs ∧ b = { a with out := o' ++ bs }

theorem respects_sameButCond (i : Instr) : Respects i SameButCond := by
  intro u a b _ h
  rw [h]
  cases u <;> rfl

theorem respects_sameButRun (i : Instr) : Respects i SameButRun := by
  intro u a b _ h
  rw [h]
  cases u <;> rfl

theorem State.setReg_setReg_self (s : State) (r : Reg) (v w : Word) : (s.setReg r v).setReg r w = s.setReg r w := by
  simp [State.setReg]

theorem State.setReg_comm (s : State) {r q : Reg} (v w : Word) (hq : q ≠ r) :
    (s.setReg r v).setReg q w = (s.setReg q w).setReg r v := by
  have : r.val ≠ q.val := fun e => hq (Fin.ext e.symm)
  simp [State.setReg, Vector.set_comm _ _ this]

/-- Writing one register on both sides keeps them equal but for `r`. -/
theorem SameButReg.setReg {r : Reg} {a b : State} (h : SameButReg r a b) (q : Reg) (w : Word) :
    SameButReg r (a.setReg q w) (b.setReg q w) := by
  unfold SameButReg at *
  rw [h]
  by_cases hq : q = r
  · subst hq; simp [State.setReg_setReg_self]
  · rw [State.setReg_comm _ _ _ hq, State.setReg_reg_self]

theorem respects_sameButReg (i : Instr) (r : Reg) : Respects i (SameButReg r) := by
  intro u a b _ h
  cases u with
  | reg q w => exact h.setReg q w
  | result dr v => exact congrArg (·.setcc v) (h.setReg dr v)
  | _ => exact congrArg _ h

theorem respects_sameButOut (i : Instr) (o o' : List Byte) : Respects i (SameButOut o o') := by
  rintro u a b - ⟨bs, ha, rfl⟩
  cases u with
  | out new => exact ⟨bs ++ new, by simp [Update.apply, ha], by simp [Update.apply, State.consoleOut]⟩
  | _ => exact ⟨bs, ha, rfl⟩

theorem SameButOut.agree {o o' : List Byte} {a b : State} (h : SameButOut o o' a b) (i : Instr) : Agree i a b := by
  obtain ⟨bs, -, rfl⟩ := h
  exact ⟨⟨rfl, rfl, rfl, rfl, rfl⟩, fun _ _ => rfl, fun _ _ _ _ _ => rfl⟩

/-- What `f` answers from `s` grows OUT by some bytes, and the bytes that stood in OUT before decide nothing. -/
def AppendsOnly (f : State → Host.Outcome State Fault Refusal) (s t : State) : Prop :=
  ∃ bs, t.out = s.out ++ bs ∧ ∀ o : List Byte, f { s with out := o } = .next { t with out := o ++ bs }

/-- Since `t.out = s.out ++ bs` fixes the bytes `bs`, they are the same whatever stood in OUT before. -/
theorem appendsOnly_of_sameButOut {f : State → Host.Outcome State Fault Refusal} {s t : State}
    (h : ∀ o, ∃ t', f { s with out := o } = .next t' ∧ SameButOut s.out o t t') : AppendsOnly f s t := by
  obtain ⟨-, -, bs, hbs, -⟩ := h []
  refine ⟨bs, hbs, fun o => ?_⟩
  obtain ⟨_, ht', bs', hbs', rfl⟩ := h o
  rw [ht', List.append_cancel_left (hbs.symm.trans hbs')]

theorem sameButOut_start (s : State) (o : List Byte) : SameButOut s.out o s { s with out := o } :=
  ⟨[], by simp, by simp⟩

theorem exec_appendsOnly {i : Instr} {s t : State} (h : exec i s = .next t) : AppendsOnly (exec i) s t :=
  appendsOnly_of_sameButOut fun o =>
    have start := sameButOut_start s o
    exec_related h (start.agree i) (respects_sameButOut i s.out o) start

/-! ### The step, taken with another output

The fetch and the end of a key wait make no update that TRAP IN may not make, so they count as its sequences. -/

section
variable {o o' : List Byte} {a b : State} (h : SameButOut o o' a b)
include h

theorem SameButOut.deliverKeys : SameButOut o o' a.deliverKeys b.deliverKeys := by
  obtain ⟨bs, ha, rfl⟩ := h
  rw [State.deliverKeys_eq, State.deliverKeys_eq]
  exact ⟨bs, ha, rfl⟩

theorem SameButOut.fetch : b.fetch.1 = a.fetch.1 ∧ SameButOut o o' a.fetch.2 b.fetch.2 := by
  have start : Lockstep .trapIn a b a b := .start (h.agree .trapIn).view
  obtain ⟨value, after⟩ := start.fetch
  exact ⟨value, after.related (respects_sameButOut _ o o') h⟩

theorem SameButOut.completeKeyWait (w : Wait) : SameButOut o o' (a.completeKeyWait w) (b.completeKeyWait w) :=
  have start : Lockstep .trapIn a b a b := .start (h.agree .trapIn).view
  (start.completeKeyWait (by decide) rfl w).related (respects_sameButOut _ o o') h

theorem step_related_sameButOut {t : State} (ht : step a = .next t) :
    ∃ t', step b = .next t' ∧ SameButOut o o' t t' := by
  have delivered := h.deliverKeys
  have run : b.run = a.run := by obtain ⟨_, -, rfl⟩ := h; rfl
  have wait : b.wait = a.wait := by obtain ⟨_, -, rfl⟩ := h; rfl
  have pending : b.deliverKeys.keyPending = a.deliverKeys.keyPending := by
    obtain ⟨_, -, e⟩ := delivered; rw [e]; rfl
  have arrivals : b.deliverKeys.arrivals = a.deliverKeys.arrivals := by obtain ⟨_, -, e⟩ := delivered; rw [e]
  obtain ⟨hr, ⟨hw, he⟩ | ⟨hw, hk, rfl⟩ | ⟨hw, hk, hn, rfl⟩⟩ := step_cases ht
  · obtain ⟨value, fetched⟩ := delivered.fetch
    rw [step_fetch (run.trans hr) (wait.trans hw), value]
    exact exec_related he (fetched.agree _) (respects_sameButOut _ o o') fetched
  · rw [step_waiting (run.trans hr) (wait ▸ hw), wait, resumeWait, if_pos (pending.trans hk)]
    exact ⟨_, rfl, delivered.completeKeyWait a.wait⟩
  · rw [step_waiting (run.trans hr) (wait ▸ hw), resumeWait, if_neg (by rw [pending, hk]; exact Bool.false_ne_true),
      if_neg (by simpa [arrivals] using hn)]
    exact ⟨_, rfl, delivered⟩

end

end Sys2Proof.Machine
end

section
/-! The invariant (spec/10_state.md R36, spec/60_exceptions.md R203, R220): at reset, and over every step. -/

namespace Sys2Proof.Machine

/-! ### RUN and WAIT before an instruction executes -/

@[simp] theorem State.deliverKeys_run (s : State) : s.deliverKeys.run = s.run := by rw [State.deliverKeys_eq]
@[simp] theorem State.deliverKeys_wait (s : State) : s.deliverKeys.wait = s.wait := by rw [State.deliverKeys_eq]
@[simp] theorem State.fetch_run (s : State) : s.fetch.2.run = s.run := by simp [State.fetch_snd]
@[simp] theorem State.fetch_wait (s : State) : s.fetch.2.wait = s.wait := by simp [State.fetch_snd]

/-! ### Storage -/

/-- The invariant's part about storage: canonical memory, nothing behind the devices, distinct device addresses. -/
structure State.StorageInv (s : State) : Prop where
  memory : s.mem.wf = true
  devices : ∀ a : Word, s.isDevice a = true → s.cell a = 0
  distinct : s.cfg.wf

theorem State.Inv.storage {s : State} (h : s.Inv) : s.StorageInv := ⟨h.memory, h.devices, h.distinct⟩

/-- It depends on memory and on the parameters only. -/
theorem State.StorageInv.of_eq {s t : State} (h : s.StorageInv) (hm : t.mem = s.mem) (hc : t.cfg = s.cfg) :
    t.StorageInv := by
  obtain ⟨memory, devices, distinct⟩ := h
  refine ⟨hm ▸ memory, fun a ha => ?_, hc ▸ distinct⟩
  rw [State.cell, hm]
  exact devices a (by rwa [State.isDevice, hc] at ha)

theorem State.StorageInv.memWrite {s : State} (h : s.StorageInv) (a v : Word) : (s.memWrite a v).StorageInv := by
  refine ⟨State.memWrite_wf h.memory a v, fun b hb => ?_, by rw [State.memWrite_cfg]; exact h.distinct⟩
  rw [State.memWrite_isDevice] at hb
  by_cases hd : s.isDevice a = true
  · rw [State.memWrite_device hd]
    exact h.devices b hb
  · rw [State.cell_memWrite_of_ne s v (by rintro rfl; exact hd hb)]
    exact h.devices b hb

theorem exec_storageInv {i : Instr} {s t : State} (h : exec i s = .next t) (hs : s.StorageInv) : t.StorageInv := by
  refine exec_keeps h (fun u a _ ha => ?_) hs
  cases u with
  | store x v => rw [Update.store_apply]; exact ha.memWrite x v
  | _ => exact ha.of_eq rfl rfl

/-! ### The whole invariant -/

/-- A core that neither is halted nor waits keeps the invariant in every instruction. -/
theorem exec_inv {i : Instr} {s t : State} (h : exec i s = .next t) (hs : s.Inv) (hr : s.run = .running)
    (hw : s.wait = .none) : t.Inv := by
  obtain ⟨memory, devices, distinct⟩ := exec_storageInv h hs.storage
  refine ⟨memory, devices, distinct, fun hf => ?_, fun hwait => ?_⟩
  · cases raises : i.raisesFatal with
    | true => exact (exec_halted_iff h).mpr (.inr (.inr raises))
    | false =>
      rw [exec_fault_kept h raises] at hf
      exact absurd (hr.symm.trans (hs.faulted hf)) (by decide)
  · cases halts : i.halts with
    | true => exact absurd ((exec_wait_kept h halts).trans hw) hwait
    | false => exact (exec_run_kept h halts).trans hr

/-- An update that keeps memory, the parameters, RUN and FAULT, and starts no wait, keeps the invariant. -/
theorem State.Inv.of_eq {s t : State} (h : s.Inv) (hm : t.mem = s.mem) (hc : t.cfg = s.cfg) (hr : t.run = s.run)
    (hf : t.fault = s.fault) (hw : t.wait = s.wait ∨ t.wait = .none) : t.Inv := by
  obtain ⟨memory, devices, distinct⟩ := h.storage.of_eq hm hc
  refine ⟨memory, devices, distinct, by rw [hf, hr]; exact h.faulted, fun hwait => ?_⟩
  rcases hw with hw | hw
  · rw [hr]; exact h.waiting (hw ▸ hwait)
  · exact absurd hw hwait

theorem deliverKeys_inv {s : State} (h : s.Inv) : s.deliverKeys.Inv := by
  rw [State.deliverKeys_eq]
  exact h.of_eq rfl rfl rfl rfl (.inl rfl)

theorem fetch_inv {s : State} (h : s.Inv) : s.fetch.2.Inv := by
  rw [State.fetch_snd]
  exact h.of_eq (by simp) (by simp) (by simp) (by simp) (.inl (by simp))

theorem completeKeyWait_inv {s : State} (h : s.Inv) (w : Wait) : (s.completeKeyWait w).Inv :=
  h.of_eq (by simp) (by simp) (by simp) (by simp) (.inr (by simp))

/-- Settles O55, with the case split of `step_cases`. -/
theorem stepKeepsTheInvariant : Obligations.StepKeepsTheInvariant := by
  intro s t hs h
  have delivered := deliverKeys_inv hs
  obtain ⟨hr, ⟨hw, he⟩ | ⟨-, -, rfl⟩ | ⟨-, -, -, rfl⟩⟩ := step_cases h
  · exact exec_inv he (fetch_inv delivered) (by simp [hr]) (by simp [hw])
  · exact completeKeyWait_inv delivered s.wait
  · exact delivered

/-- Settles O54: memory is empty, there is no fault and no wait. -/
theorem resetMeetsTheInvariant : Obligations.ResetMeetsTheInvariant := by
  have reset (c : Config) (hc : c.wf) : (State.resetWith c).Inv :=
    ⟨Memory.wf_nil, fun a _ => Memory.read_nil a.toNat, hc, fun h => absurd rfl h, fun h => absurd rfl h⟩
  exact ⟨reset Config.standard (by decide), reset⟩

end Sys2Proof.Machine
end

section
/-! The canonical form of memory is unique, and the statements about COND, the registers, RUN, OUT and the keyboard. -/

namespace Sys2Proof.Machine

/-! ### The canonical form of memory -/

theorem Memory.wfFrom_cons {lo b : Nat} {u : Word} {m : Memory} :
    Memory.wfFrom lo ((b, u) :: m) = true ↔ lo ≤ b ∧ b < 65536 ∧ u ≠ 0 ∧ m.wfFrom (b + 1) = true := by
  simp only [Memory.wfFrom, Bool.and_eq_true, decide_eq_true_eq, and_assoc]
  exact Iff.rfl

/-- Read alike over the whole address space. -/
def Memory.ReadAlike (m m' : Memory) : Prop := ∀ a, a < 65536 → m.read a = m'.read a

/-- A listed cell is not 0, so a canonical memory that reads like it starts no higher than its address. -/
theorem Memory.le_head_of_readAlike {lo lo' b : Nat} {u : Word} {m m' : Memory}
    (h : Memory.wfFrom lo ((b, u) :: m) = true) (h' : m'.wfFrom lo' = true)
    (alike : Memory.ReadAlike ((b, u) :: m) m') : lo' ≤ b := by
  obtain ⟨-, hb, hu, -⟩ := Memory.wfFrom_cons.mp h
  by_contra below
  have zero : m'.read b = 0 := Memory.read_below h' (by omega)
  have listed := alike b hb
  rw [Memory.read_cons, if_pos rfl, zero] at listed
  exact hu listed

/-- Below an entry that both list, two canonical memories that read alike go on reading alike without it. -/
theorem Memory.tail_readAlike {b : Nat} {u : Word} {m m' : Memory} (h : m.wfFrom (b + 1) = true)
    (h' : m'.wfFrom (b + 1) = true) (alike : Memory.ReadAlike ((b, u) :: m) ((b, u) :: m')) :
    Memory.ReadAlike m m' := by
  intro a ha
  by_cases hab : a = b
  · rw [Memory.read_below h (by omega), Memory.read_below h' (by omega)]
  · simpa [Memory.read_cons, hab] using alike a ha

theorem Memory.eq_of_readAlike {lo lo' : Nat} {m m' : Memory} (h : m.wfFrom lo = true) (h' : m'.wfFrom lo' = true)
    (alike : Memory.ReadAlike m m') : m = m' := by
  have alike' : Memory.ReadAlike m' m := fun a ha => (alike a ha).symm
  induction m generalizing lo lo' m' with
  | nil =>
    cases m' with
    | nil => rfl
    | cons e rest =>
      have above := Memory.le_head_of_readAlike (lo' := e.1 + 1) h' rfl alike'
      omega
  | cons e rest ih =>
    obtain ⟨b, u⟩ := e
    cases m' with
    | nil =>
      have above := Memory.le_head_of_readAlike (lo' := b + 1) h rfl alike
      omega
    | cons e' rest' =>
      obtain ⟨b', u'⟩ := e'
      obtain ⟨-, hb, hu, hrest⟩ := Memory.wfFrom_cons.mp h
      obtain ⟨-, hb', hu', hrest'⟩ := Memory.wfFrom_cons.mp h'
      have head : b = b' := Nat.le_antisymm
        (Memory.le_head_of_readAlike h' (Memory.wfFrom_cons.mpr ⟨le_rfl, hb, hu, hrest⟩) alike')
        (Memory.le_head_of_readAlike h (Memory.wfFrom_cons.mpr ⟨le_rfl, hb', hu', hrest'⟩) alike)
      subst head
      have value : u = u' := by simpa [Memory.read_cons] using alike b hb
      subst value
      have tails := Memory.tail_readAlike hrest hrest' alike
      rw [ih hrest hrest' tails fun a ha => (tails a ha).symm]

/-- Settles O11, by induction on both lists. -/
theorem canonicalMemoriesThatReadAlikeAreEqual : Obligations.CanonicalMemoriesThatReadAlikeAreEqual :=
  fun _ _ h h' alike => Memory.eq_of_readAlike h h' alike

/-! ### The statements about the parts of the state -/

/-- Settles O12. -/
theorem setccFollowsTheSign : Obligations.SetccFollowsTheSign := fun _ v => ⟨condOf_reflects v, rfl⟩

/-- Settles O35: who writes COND from the allowed updates, who reads it from `Agree`. -/
theorem condIsWrittenBySevenAndReadByBr : Obligations.CondIsWrittenBySevenAndReadByBr := by
  intro i s t h
  refine ⟨exec_cond_kept h, fun hc => ?_, fun notBr c => ?_⟩
  · obtain ⟨dr, u, v, hw, rfl⟩ := exec_writes_result h hc
    refine ⟨dr, hw, ?_⟩
    rw [State.writeResult_cond, State.writeResult_reg_self]
    exact condOf_reflects v
  · have agree : Agree i s { s with cond := c } :=
      ⟨⟨rfl, rfl, rfl, rfl, rfl⟩, fun _ _ => rfl, fun n z p off e => absurd e (notBr n z p off)⟩
    obtain ⟨t', h', same⟩ := exec_related h agree (respects_sameButCond i) rfl
    exact ⟨t', h', by rw [same]⟩

/-- Settles O36: the registers written from the allowed updates, those read from `Agree`. -/
theorem registersReadAndWrittenAreTheTables : Obligations.RegistersReadAndWrittenAreTheTables := by
  intro i s t h
  refine ⟨exec_regs_kept h, fun r v unread => ?_⟩
  have others (q : Reg) (hq : q ∈ i.readsRegs) : (s.setReg r v).reg q = s.reg q :=
    s.setReg_reg_of_ne v (by rintro rfl; exact unread hq)
  have agree : Agree i s (s.setReg r v) := ⟨⟨rfl, rfl, rfl, rfl, rfl⟩, others, fun _ _ _ _ _ => rfl⟩
  have start : SameButReg r s (s.setReg r v) := by rw [SameButReg, State.setReg_reg_self]
  obtain ⟨t', h', same⟩ := exec_related h agree (respects_sameButReg i r) start
  exact ⟨t', h', by rw [same, State.setReg_setReg_self]⟩

/-- Settles O38: a wait keeps RUN, so only an instruction can halt the core. -/
theorem runIsATwoStateMachine : Obligations.RunIsATwoStateMachine := by
  refine ⟨rfl, State.hostReset_run, fun s t h => (step_cases h).1, fun s t h halted => ?_,
    fun i s t h => ⟨exec_halted_iff h, fun r => ?_⟩⟩
  · obtain ⟨hr, ⟨hw, he⟩ | ⟨-, -, rfl⟩ | ⟨-, -, -, rfl⟩⟩ := step_cases h
    · refine ⟨hw, ((exec_halted_iff he).mp halted).resolve_left ?_⟩
      simp [hr]
    · simp [hr] at halted
    · simp [hr] at halted
  · have agree : Agree i s (s.setRun r) := ⟨⟨rfl, rfl, rfl, rfl, rfl⟩, fun _ _ => rfl, fun _ _ _ _ _ => rfl⟩
    obtain ⟨t', h', same⟩ := exec_related h agree (respects_sameButRun i) rfl
    exact ⟨t', h', by rw [same]; rfl⟩

/-- Settles O41. -/
theorem outIsOnlyAppendedTo : Obligations.OutIsOnlyAppendedTo :=
  ⟨fun _ _ _ h => exec_appendsOnly h,
    fun s _ h => appendsOnly_of_sameButOut fun o => step_related_sameButOut (sameButOut_start s o) h⟩

/-- Settles O42. -/
theorem keysAreTakenFromTheHeadOnly : Obligations.KeysAreTakenFromTheHeadOnly :=
  fun _ _ _ h => ⟨exec_kbq_suffix h, exec_host_kept h⟩

end Sys2Proof.Machine
end

section
/-! Memory and the two device registers (spec/20_memory.md): MemRead and MemWrite, the fetch from a device address and
after a store, and the ordinary strings that PUTS and PUTSP write. -/

namespace Sys2Proof.Machine

/-! ### MemWrite and storage -/

/-- Settles O8. -/
theorem writesAreStoredOrDropped : Obligations.WritesAreStoredOrDropped := by
  intro s a v
  refine ⟨fun hd => State.memWrite_device ((s.isDevice_iff a).mpr hd) v, fun hs hd hm => ?_,
    fun b hb => s.cell_memWrite_of_ne v hb, ?_⟩
  · exact State.cell_memWrite_self hm (by simp [State.isDevice, hs, hd]) v
  · unfold State.memWrite
    split <;> rfl

/-- Settles O7. -/
theorem readReturnsTheLatestWrite : Obligations.ReadReturnsTheLatestWrite := by
  intro s a v hm ha
  refine ⟨?_, fun b hne hb => ?_⟩
  · rw [State.memRead_ordinary (by simpa using ha)]
    exact State.cell_memWrite_self hm ha v
  · rw [State.memRead_ordinary (by simpa using hb), State.memRead_ordinary hb]
    exact s.cell_memWrite_of_ne v hne

/-- R74: of the updates an instruction is made of, only a store changes memory. -/
theorem exec_mem_kept {i : Instr} {s t : State} (h : exec i s = .next t) (hs : i.stores = false) : t.mem = s.mem := by
  refine exec_keeps (P := fun a => a.mem = s.mem) h (fun u a ok ha => ?_) rfl
  cases u with
  | store x v => exact absurd (hs.symm.trans ok) Bool.false_ne_true
  | _ => exact ha

/-- Settles O40. -/
theorem onlyStoresChangeMemory : Obligations.OnlyStoresChangeMemory := by
  intro i s t h hs
  have kept := exec_mem_kept h hs
  exact ⟨fun a => by rw [State.cell, State.cell, kept], kept⟩

/-! ### MemRead at the two devices -/

/-- R54, in terms of the key queue. -/
theorem State.kbsrValue_eq (s : State) : s.kbsrValue = if s.kbq = [] then 0x0000#16 else 0x8000#16 := by
  by_cases h : s.kbq = [] <;> simp [State.kbsrValue, State.keyPending, h]

theorem State.kbsrValue_eq_zero_iff (s : State) : s.kbsrValue = 0x0000#16 ↔ s.kbq = [] := by
  simp [State.kbsrValue_eq]

theorem State.kbsrValue_eq_ready_iff (s : State) : s.kbsrValue = 0x8000#16 ↔ s.kbq ≠ [] := by
  simp [State.kbsrValue_eq]

/-- Settles O10, case by case of R52. -/
theorem readIsInterceptedAtTheTwoDevices : Obligations.ReadIsInterceptedAtTheTwoDevices := by
  intro s a
  refine ⟨fun hs => ?_, fun hs hd key rest hq => ?_, fun hs hd hq => ?_, fun hs hd => ?_⟩
  · rw [State.memRead_kbsr hs]
    exact ⟨s.kbsrValue_eq, rfl⟩
  · rw [State.memRead_kbdr hs hd, State.readKbdr_pending hq, toNat_zext8]
    exact ⟨rfl, key.isLt, rfl⟩
  · rw [State.memRead_kbdr hs hd, State.readKbdr_empty hq]
    exact ⟨hq, rfl⟩
  · rw [State.memRead_ordinary (by simp [State.isDevice, hs, hd])]
    exact ⟨rfl, rfl⟩

/-- A read after which KBSR no longer shows the key that it showed before has taken the only one, at KBDR. -/
theorem State.kbsrValue_cleared_by_memRead {s : State} {a : Word} (before : s.kbsrValue = 0x8000#16)
    (after : (s.memRead a).2.kbsrValue = 0x0000#16) : a = s.cfg.kbdrAddr ∧ s.kbq.length = 1 := by
  rw [State.kbsrValue_eq_ready_iff] at before
  rw [State.kbsrValue_eq_zero_iff] at after
  rcases s.memRead_cases a with ⟨-, e⟩ | ⟨-, hd, key, rest, hq, e⟩ | ⟨-, -, hq, -⟩ | ⟨-, e⟩
  · exact absurd (by rwa [e] at after) before
  · have last : rest = [] := by rwa [e] at after
    exact ⟨hd, by rw [hq, last]; rfl⟩
  · exact absurd hq before
  · exact absurd (by rwa [e] at after) before

/-- Settles O9. -/
theorem kbsrShowsWhetherAKeyIsPending : Obligations.KbsrShowsWhetherAKeyIsPending := by
  intro s
  have kbsr (u : State) : u.memRead u.cfg.kbsrAddr = (u.kbsrValue, u) := State.memRead_kbsr rfl
  refine ⟨fun hq => ?_, fun hq => ?_, fun key => ?_, fun a before after => ?_⟩
  · rw [kbsr, s.kbsrValue_eq_ready_iff.mpr hq]
  · rw [kbsr, s.kbsrValue_eq_zero_iff.mpr hq]
  · rw [← s.keyArrives_cfg key, kbsr, State.kbsrValue_eq_ready_iff]
    simp
  · rw [kbsr] at before
    rw [← s.memRead_cfg a, kbsr] at after
    exact State.kbsrValue_cleared_by_memRead before after

/-! ### The fetch -/

/-- R77: a key code is the word of a BR with no condition bit. -/
theorem decode_zext8 (b : Byte) : decode (zext8 b) = .br false false false (offset9Field (zext8 b)) := by
  have opcode : opcodeField (zext8 b) = 0x0#4 := by
    have := b.isLt
    rw [← BitVec.toNat_inj, toNat_opcodeField, toNat_zext8]
    exact Nat.div_eq_of_lt (by omega)
  have above (n : Nat) (hn : 8 ≤ n) : (zext8 b).getLsbD n = false := by
    simp [zext8, BitVec.getLsbD_of_ge b n hn]
  rw [decode_br opcode, above 11 (by decide), above 10 (by decide), above 9 (by decide)]

/-- R109: a BR with no condition bit does nothing. -/
theorem exec_br_never (off : BitVec 9) (s : State) : exec (.br false false false off) s = .next s := by
  simp [exec, execBr]

/-- With no keys scheduled a step of a core that does not wait is the fetch and the instruction fetched. -/
theorem step_fetch_of_no_arrivals {s : State} (hr : s.run = .running) (hw : s.wait = .none) (ha : s.arrivals = []) :
    step s = exec (decode (s.memRead s.pc).1) ((s.memRead s.pc).2.setPc (s.pc + 1)) := by
  have same : s.deliverKeys = s := by simp [State.deliverKeys, ha]
  rw [step_fetch hr hw, same, State.fetch]

/-- Settles O44: the four cases of R77. -/
theorem fetchFromADeviceAddress : Obligations.FetchFromADeviceAddress := by
  intro s hr hw ha hc
  have fetched := step_fetch_of_no_arrivals hr hw ha
  refine ⟨fun hp hq => ?_, fun hp hq => ?_, fun hp key rest hq => ?_, fun hp hq => ?_⟩
  · have noop : decode 0x0000#16 = .br false false false 0 := by decide
    rw [fetched, State.memRead_kbsr hp, s.kbsrValue_eq_zero_iff.mpr hq, noop, exec_br_never]
  · have fatal : decode 0x8000#16 = .rti 0 := by decide
    rw [State.memRead_kbsr hp, s.kbsrValue_eq_ready_iff.mpr hq, fatal] at fetched
    exact ⟨_, fetched, rfl, rfl, by simp [encode], rfl⟩
  · rw [fetched, State.memRead_kbdr (hp ▸ hc) hp, State.readKbdr_pending hq, decode_zext8, exec_br_never]
    rfl
  · rw [fetched, State.memRead_kbdr (hp ▸ hc) hp, State.readKbdr_empty hq]
    rfl

/-- Settles O52: the store goes to the cell that PC names, and the fetch reads that cell. -/
theorem storeToTheNextInstructionIsFetched : Obligations.StoreToTheNextInstructionIsFetched := by
  intro sr s t hm hd h
  have target : s.pcRelative 0 = s.pc := by simp [State.pcRelative, sext]
  have stored : s.memWrite s.pc (s.reg sr) = t := by rw [← target]; exact Host.Outcome.next.inj h
  subst stored
  rw [State.fetch_ordinary (by simpa using hd), State.memWrite_pc, State.cell_memWrite_self hm hd]
  exact ⟨rfl, rfl⟩

/-! ### Ordinary strings (R174, R176) -/

/-- From address `a` upward, wrapping at `0xFFFF`, stand the non-zero words of `str` and then a zero cell, none of them at
a device address. -/
def State.HoldsString (s : State) (a : Word) (str : List Word) : Prop :=
  (∀ k, (h : k < str.length) → s.isDevice (a + BitVec.ofNat 16 k) = false ∧
    s.cell (a + BitVec.ofNat 16 k) = str[k] ∧ str[k] ≠ 0) ∧
  s.isDevice (a + BitVec.ofNat 16 str.length) = false ∧ s.cell (a + BitVec.ofNat 16 str.length) = 0

theorem State.HoldsString.memRead_nil {s : State} {a : Word} (h : s.HoldsString a []) : s.memRead a = (0, s) := by
  obtain ⟨-, ordinary, zero⟩ := h
  rw [List.length_nil, BitVec.add_zero] at ordinary zero
  rw [State.memRead_ordinary ordinary, zero]

theorem State.HoldsString.memRead_cons {s : State} {a c : Word} {str : List Word} (h : s.HoldsString a (c :: str)) :
    s.memRead a = (c, s) ∧ c ≠ 0 := by
  obtain ⟨ordinary, cell, nonzero⟩ := h.1 0 (Nat.zero_lt_succ _)
  rw [BitVec.add_zero] at ordinary cell
  exact ⟨by rw [State.memRead_ordinary ordinary, cell]; rfl, nonzero⟩

theorem State.HoldsString.tail {s : State} {a c : Word} {str : List Word} (h : s.HoldsString a (c :: str)) :
    s.HoldsString (a + 1) str := by
  have shift (k : Nat) : a + 1 + BitVec.ofNat 16 k = a + BitVec.ofNat 16 (k + 1) := by
    rw [Nat.add_comm, BitVec.ofNat_add, ← BitVec.add_assoc]; rfl
  obtain ⟨cells, ordinary, zero⟩ := h
  refine ⟨fun k hk => ?_, by rwa [shift], by rwa [shift]⟩
  rw [shift]
  exact cells (k + 1) (Nat.succ_lt_succ hk)

/-- A string around the whole address space would run over KBSR. -/
theorem State.HoldsString.length_lt {s : State} {a : Word} {str : List Word} (h : s.HoldsString a str) :
    str.length < 65536 := by
  have kbsr : a + BitVec.ofNat 16 (s.cfg.kbsrAddr - a).toNat = s.cfg.kbsrAddr := by
    rw [BitVec.ofNat_toNat, BitVec.setWidth_eq, BitVec.add_comm, BitVec.sub_add_cancel]
  by_contra long
  have inside : (s.cfg.kbsrAddr - a).toNat < str.length := by
    have := (s.cfg.kbsrAddr - a).isLt
    omega
  obtain ⟨ordinary, -, -⟩ := h.1 _ inside
  rw [kbsr] at ordinary
  simp [State.isDevice] at ordinary

/-- The walk over a string reads each of its words once, and the zero cell. -/
theorem State.HoldsString.walkString {s : State} {a : Word} {str : List Word} (h : s.HoldsString a str)
    (chars : Word → List Byte) :
    State.walkString chars (str.length + 1) a s = some (s.consoleOut (str.flatMap chars)) := by
  induction str generalizing a s with
  | nil => simp [State.walkString_succ, h.memRead_nil, State.consoleOut]
  | cons c str ih =>
    obtain ⟨read, nonzero⟩ := h.memRead_cons
    have rest : (s.consoleOut (chars c)).HoldsString (a + 1) str := h.tail
    rw [List.length_cons, State.walkString_succ, read, if_neg nonzero, ih rest]
    simp [State.consoleOut]

/-- PUTS and PUTSP after the write of `R7`, on an ordinary string at `R0`: only OUT changes. -/
theorem State.HoldsString.writeString {s : State} {str : List Word} (h : s.HoldsString (s.reg 0) str)
    (chars : Word → List Byte) : s.writeString chars = .next (s.consoleOut (str.flatMap chars)) := by
  have enough : str.length + 1 ≤ s.walkFuel := by
    have := h.length_lt
    simp only [State.walkFuel]
    omega
  rw [State.writeString_next_iff, ← Nat.add_sub_cancel' enough]
  exact State.walkString_more (h.walkString chars) _

theorem lowByte_eq (c : Word) : lowByte c = c.setWidth 8 := by
  rw [← BitVec.toNat_inj, lowByte, toNat_lowField, BitVec.toNat_setWidth]

theorem highByte_eq_zero_iff (c : Word) : highByte c = 0 ↔ c.toNat / 256 = 0 := by
  have := c.isLt
  rw [← BitVec.toNat_inj, highByte, toNat_wordField]
  simp only [BitVec.ofNat_eq_ofNat, BitVec.toNat_ofNat]
  omega

theorem putsBytes_eq (c : Word) : putsBytes c = [c.setWidth 8] := by rw [putsBytes, lowByte_eq]

theorem putspBytes_eq (c : Word) :
    putspBytes c = if c.toNat / 256 = 0 then [c.setWidth 8] else [c.setWidth 8, (c >>> 8).setWidth 8] := by
  simp only [putspBytes, highByte_eq_zero_iff, lowByte_eq]
  rfl

/-- Settles O53. -/
theorem ordinaryStringsAreWritten : Obligations.OrdinaryStringsAreWritten := by
  intro s str cells ordinary zero
  have held : s.link.HoldsString (s.link.reg 0) str := by
    rw [State.link_reg_zero]
    exact ⟨cells, ordinary, zero⟩
  rw [List.map_eq_flatMap, ← funext putsBytes_eq, ← funext putspBytes_eq]
  exact ⟨held.writeString putsBytes, held.writeString putspBytes⟩

end Sys2Proof.Machine
end

section
/-! The encoding (spec/30_encoding.md R110): decoding undoes encoding, and every word meets the test of its own row of the
opcode table and of no other row but TRAP.unknown's. -/

namespace Sys2Proof

/-- Settles O4: the round trip of each row, which Laws/PerInstr.lean proves constructor by constructor. -/
theorem decodeEncodeAgree : Obligations.DecodeEncodeAgree := fun i =>
  match i with
  | .addReg dr sr1 sr2 => Laws.RoundTrip.addReg dr sr1 sr2
  | .addImm dr sr1 imm5 => Laws.RoundTrip.addImm dr sr1 imm5
  | .andReg dr sr1 sr2 => Laws.RoundTrip.andReg dr sr1 sr2
  | .andImm dr sr1 imm5 => Laws.RoundTrip.andImm dr sr1 imm5
  | .not dr sr => Laws.RoundTrip.not dr sr
  | .br n z p offset9 => Laws.RoundTrip.br n z p offset9
  | .jmp baseR => Laws.RoundTrip.jmp baseR
  | .jsr offset11 => Laws.RoundTrip.jsr offset11
  | .jsrr baseR => Laws.RoundTrip.jsrr baseR
  | .ld dr offset9 => Laws.RoundTrip.ld dr offset9
  | .ldi dr offset9 => Laws.RoundTrip.ldi dr offset9
  | .ldr dr baseR offset6 => Laws.RoundTrip.ldr dr baseR offset6
  | .lea dr offset9 => Laws.RoundTrip.lea dr offset9
  | .st sr offset9 => Laws.RoundTrip.st sr offset9
  | .sti sr offset9 => Laws.RoundTrip.sti sr offset9
  | .str sr baseR offset6 => Laws.RoundTrip.str sr baseR offset6
  | .trapGetc => Laws.RoundTrip.trapGetc
  | .trapOut => Laws.RoundTrip.trapOut
  | .trapPuts => Laws.RoundTrip.trapPuts
  | .trapIn => Laws.RoundTrip.trapIn
  | .trapPutsp => Laws.RoundTrip.trapPutsp
  | .trapHalt => Laws.RoundTrip.trapHalt
  | .trapUnknown ignored trapvect8 => Laws.RoundTrip.trapUnknown ignored trapvect8
  | .rti ignored => Laws.RoundTrip.rti ignored
  | .res ignored => Laws.RoundTrip.res ignored

/-! ### What a row's test says: from the masked word to the decoded instruction -/

section
variable {w : Word}

theorem decode_addReg (row : w &&& 0xF020 = 0x1000) :
    decode w = .addReg (regField w 9) (regField w 6) (regField w 0) := by
  have mode : w.getLsbD 5 = false := bit_of_masked row rfl
  rw [decode_add (field_of_masked row rfl), mode, if_neg Bool.false_ne_true]

theorem decode_addImm (row : w &&& 0xF020 = 0x1020) :
    decode w = .addImm (regField w 9) (regField w 6) (imm5Field w) := by
  have mode : w.getLsbD 5 = true := bit_of_masked row rfl
  rw [decode_add (field_of_masked row rfl), if_pos mode]

theorem decode_andReg (row : w &&& 0xF020 = 0x5000) :
    decode w = .andReg (regField w 9) (regField w 6) (regField w 0) := by
  have mode : w.getLsbD 5 = false := bit_of_masked row rfl
  rw [decode_and (field_of_masked row rfl), mode, if_neg Bool.false_ne_true]

theorem decode_andImm (row : w &&& 0xF020 = 0x5020) :
    decode w = .andImm (regField w 9) (regField w 6) (imm5Field w) := by
  have mode : w.getLsbD 5 = true := bit_of_masked row rfl
  rw [decode_and (field_of_masked row rfl), if_pos mode]

theorem decode_jsrOffset (row : w &&& 0xF800 = 0x4800) : decode w = .jsr (offset11Field w) := by
  have mode : w.getLsbD 11 = true := bit_of_masked row rfl
  rw [decode_jsr (field_of_masked row rfl), if_pos mode]

theorem decode_jsrr (row : w &&& 0xF800 = 0x4000) : decode w = .jsrr (regField w 6) := by
  have mode : w.getLsbD 11 = false := bit_of_masked row rfl
  rw [decode_jsr (field_of_masked row rfl), mode, if_neg Bool.false_ne_true]

/-- The row test that the table gives each of the six vectors with a routine, at any vector. -/
theorem decode_trapVector {v : BitVec 8} (row : w &&& 0xF0FF = 0xF#4 ++ 0#4 ++ v) :
    decode w = decodeTrap (w.extractLsb' 8 4) v := by
  have opcode : opcodeField w = 0xF#4 := by
    rw [opcodeField, field_of_masked row (by rfl), BitVec.extractLsb'_append_eq_of_le (by decide)]
    rfl
  have vector : trapvectField w = v := by
    rw [trapvectField, field_of_masked row (by rfl), BitVec.extractLsb'_append_eq_right]
  rw [decode_trap opcode, vector]

end

/-- A word that meets the test of a row decodes to that row, TRAP.unknown apart. -/
theorem decode_matchMask_of_row {w : Word} {j : Instr} (row : w &&& j.matchMask.2 = j.matchMask.1)
    (known : j.matchMask ≠ (0xF000#16, 0xF000#16)) : (decode w).matchMask = j.matchMask := by
  cases j
  all_goals simp only [Instr.matchMask] at row
  case addReg => rw [decode_addReg row]; rfl
  case addImm => rw [decode_addImm row]; rfl
  case andReg => rw [decode_andReg row]; rfl
  case andImm => rw [decode_andImm row]; rfl
  case not => rw [decode_not (field_of_masked row rfl)]; rfl
  case br => rw [decode_br (field_of_masked row rfl)]; rfl
  case jmp => rw [decode_jmp (field_of_masked row rfl)]; rfl
  case jsr => rw [decode_jsrOffset row]; rfl
  case jsrr => rw [decode_jsrr row]; rfl
  case ld => rw [decode_ld (field_of_masked row rfl)]; rfl
  case ldi => rw [decode_ldi (field_of_masked row rfl)]; rfl
  case ldr => rw [decode_ldr (field_of_masked row rfl)]; rfl
  case lea => rw [decode_lea (field_of_masked row rfl)]; rfl
  case st => rw [decode_st (field_of_masked row rfl)]; rfl
  case sti => rw [decode_sti (field_of_masked row rfl)]; rfl
  case str => rw [decode_str (field_of_masked row rfl)]; rfl
  case trapGetc => rw [decode_trapVector (v := 0x20) row]; rfl
  case trapOut => rw [decode_trapVector (v := 0x21) row]; rfl
  case trapPuts => rw [decode_trapVector (v := 0x22) row]; rfl
  case trapIn => rw [decode_trapVector (v := 0x23) row]; rfl
  case trapPutsp => rw [decode_trapVector (v := 0x24) row]; rfl
  case trapHalt => rw [decode_trapVector (v := 0x25) row]; rfl
  case trapUnknown => exact absurd rfl known
  case rti => rw [decode_rti (field_of_masked row rfl)]; rfl
  case res => rw [decode_res (field_of_masked row rfl)]; rfl

/-! ### What the masks of the table leave of a word -/

section
variable {w : Word} {op : BitVec 4} (opcode : opcodeField w = op)
include opcode

theorem and_opcodeMask : w &&& 0xF000 = op ++ 0#12 := by
  have top : (w &&& 0xF000).extractLsb' 12 4 = opcodeField w := BitVec.extractLsb'_and.trans BitVec.and_allOnes
  have rest : (w &&& 0xF000).extractLsb' 0 12 = 0#12 := BitVec.extractLsb'_and.trans BitVec.and_zero
  rw [word_eq_opcode_append (w &&& 0xF000), top, rest, opcode]

theorem and_modeMask (k : Nat) : w &&& (0xF000 ||| BitVec.twoPow 16 k) =
    (op ++ 0#12) ||| if w.getLsbD k then BitVec.twoPow 16 k else 0#16 := by
  rw [BitVec.and_or_distrib_left, and_opcodeMask opcode, BitVec.and_twoPow]

theorem and_vectorMask : w &&& 0xF0FF = op ++ 0#4 ++ trapvectField w := by
  have top : (w &&& 0xF0FF).extractLsb' 12 4 = opcodeField w := BitVec.extractLsb'_and.trans BitVec.and_allOnes
  have rest : (w &&& 0xF0FF).extractLsb' 8 4 = 0#4 := BitVec.extractLsb'_and.trans BitVec.and_zero
  have vector : (w &&& 0xF0FF).extractLsb' 0 8 = trapvectField w := BitVec.extractLsb'_and.trans BitVec.and_allOnes
  rw [word_eq_trap_append (w &&& 0xF0FF), top, rest, vector, opcode]

end

/-! ### The TRAP rows (R108) -/

theorem definedVector_iff (v : BitVec 8) :
    definedVector v = true ↔ v = 0x20#8 ∨ v = 0x21#8 ∨ v = 0x22#8 ∨ v = 0x23#8 ∨ v = 0x24#8 ∨ v = 0x25#8 := by
  simp only [definedVector, Bool.and_eq_true, decide_eq_true_eq]
  bv_omega

theorem decodeTrap_of_not_definedVector {v : BitVec 8} (undefined : ¬ definedVector v = true) (ignored : BitVec 4) :
    decodeTrap ignored v = .trapUnknown ignored v := by
  simp only [definedVector_iff, not_or] at undefined
  simp [decodeTrap, undefined]

theorem decodeTrap_wf (ignored : BitVec 4) (v : BitVec 8) : (decodeTrap ignored v).wf = true := by
  by_cases routine : definedVector v = true
  · obtain rfl | rfl | rfl | rfl | rfl | rfl := (definedVector_iff v).1 routine <;> rfl
  · simp [decodeTrap_of_not_definedVector routine, Instr.wf, routine]

theorem decodeTrap_matchMask (ignored : BitVec 4) (v : BitVec 8) :
    (decodeTrap ignored v).matchMask = if definedVector v = true then (0xF#4 ++ 0#4 ++ v, 0xF0FF) else (0xF000, 0xF000) := by
  by_cases routine : definedVector v = true
  · obtain rfl | rfl | rfl | rfl | rfl | rfl := (definedVector_iff v).1 routine <;> rfl
  · rw [decodeTrap_of_not_definedVector routine, if_neg routine]
    rfl

/-! ### Every word meets the test of the row it decodes to -/

theorem decode_wf (w : Word) : (decode w).wf = true := by
  unfold decode
  cases Opcode.ofField (opcodeField w) with
  | add | and | jsr => dsimp only; split <;> rfl
  | trap => exact decodeTrap_wf _ _
  | _ => rfl

/-- R91: the 16 values of the opcode field select 16 opcodes. -/
theorem Opcode.ofField_injective : Function.Injective Opcode.ofField := by
  unfold Function.Injective
  decide

/-- A row that tests the opcode alone. -/
theorem row_of_opcode {w : Word} {op : BitVec 4} {i : Instr} (decoded : opcodeField w = op → decode w = i)
    (selected : Opcode.ofField (opcodeField w) = Opcode.ofField op) (row : i.matchMask = (op ++ 0#12, 0xF000#16)) :
    w &&& (decode w).matchMask.2 = (decode w).matchMask.1 := by
  have opcode := Opcode.ofField_injective selected
  rw [decoded opcode, row]
  exact and_opcodeMask opcode

/-- Two rows that test the opcode and bit `k`. -/
theorem row_of_mode {w : Word} {op : BitVec 4} {k : Nat} {i j : Instr}
    (decoded : opcodeField w = op → decode w = if w.getLsbD k then i else j)
    (selected : Opcode.ofField (opcodeField w) = Opcode.ofField op)
    (set : i.matchMask = ((op ++ 0#12) ||| BitVec.twoPow 16 k, 0xF000#16 ||| BitVec.twoPow 16 k))
    (clear : j.matchMask = (op ++ 0#12, 0xF000#16 ||| BitVec.twoPow 16 k)) :
    w &&& (decode w).matchMask.2 = (decode w).matchMask.1 := by
  have opcode := Opcode.ofField_injective selected
  have masked := and_modeMask opcode k
  rw [decoded opcode]
  split at masked
  case isTrue mode => rwa [if_pos mode, set]
  case isFalse mode => rw [if_neg mode, clear]; exact masked.trans BitVec.or_zero

/-- The TRAP rows: a vector that has a routine is tested, another is not. -/
theorem row_of_trap {w : Word} (opcode : opcodeField w = 0xF#4) :
    w &&& (decode w).matchMask.2 = (decode w).matchMask.1 := by
  rw [decode_trap opcode, decodeTrap_matchMask]
  split
  · exact and_vectorMask opcode
  · exact and_opcodeMask opcode

theorem row_of_decode (w : Word) : w &&& (decode w).matchMask.2 = (decode w).matchMask.1 := by
  cases selected : Opcode.ofField (opcodeField w) with
  | br => exact row_of_opcode decode_br selected rfl
  | add => exact row_of_mode decode_add selected rfl rfl
  | ld => exact row_of_opcode decode_ld selected rfl
  | st => exact row_of_opcode decode_st selected rfl
  | jsr => exact row_of_mode decode_jsr selected rfl rfl
  | and => exact row_of_mode decode_and selected rfl rfl
  | ldr => exact row_of_opcode decode_ldr selected rfl
  | str => exact row_of_opcode decode_str selected rfl
  | rti => exact row_of_opcode decode_rti selected rfl
  | not => exact row_of_opcode decode_not selected rfl
  | ldi => exact row_of_opcode decode_ldi selected rfl
  | sti => exact row_of_opcode decode_sti selected rfl
  | jmp => exact row_of_opcode decode_jmp selected rfl
  | res => exact row_of_opcode decode_res selected rfl
  | lea => exact row_of_opcode decode_lea selected rfl
  | trap => exact row_of_trap (Opcode.ofField_injective selected)

/-! ### The statements about the encoding -/

/-- Settles O5: the decoded instruction is well formed and the word meets its row (`row_of_decode`); a row that the word
meets is the one it decodes to (`decode_matchMask_of_row`). -/
theorem everyWordDecodesToItsOneRow : Obligations.EveryWordDecodesToItsOneRow := fun w =>
  ⟨decode_wf w, row_of_decode w, fun _ _ row known => (decode_matchMask_of_row row known).symm⟩

/-- Settles O1, by evaluating the decoder on the twelve words. -/
theorem sampleWordsDecode : Obligations.SampleWordsDecode := by
  unfold Obligations.SampleWordsDecode
  decide

end Sys2Proof
end

section
/-! ADD, AND and NOT (spec/40_operate.md R131 to R135). Each ends in `State.writeResult`, so its COND and its frame are
those of that update; what is its own is the value written. -/

namespace Sys2Proof.Machine

/-- R29: COND reflects what the destination register then holds. -/
theorem State.writeResult_condReflects (s : State) (dr : Reg) (v : Word) :
    condReflects (s.writeResult dr v).cond ((s.writeResult dr v).reg dr) := by
  rw [State.writeResult_cond, State.writeResult_reg_self]
  exact condOf_reflects v

theorem State.writeResult_regsKept (s : State) (dr : Reg) (v : Word) : regsKeptBut [dr] s (s.writeResult dr v) :=
  fun _ other => s.setReg_reg_of_ne v (List.ne_of_not_mem_cons other)

theorem State.writeResult_restKept (s : State) (dr : Reg) (v : Word) : restKept s (s.writeResult dr v) :=
  ⟨s.writeResult_cell dr v, ⟨rfl, rfl, rfl⟩, ⟨rfl, rfl⟩, ⟨rfl, rfl⟩, rfl⟩

/-- How an instruction that only writes a result to `dr` meets its statement: `value` is what is said of the result. -/
theorem exec_meets_of_writeResult {i : Instr} {s : State} {dr : Reg} {v : Word} (value : Word → Prop)
    (h : exec i s = .next (s.writeResult dr v)) (hv : value v) :
    ∃ t, exec i s = .next t ∧ value (t.reg dr) ∧
      condReflects t.cond (t.reg dr) ∧ t.pc = s.pc ∧ regsKeptBut [dr] s t ∧ restKept s t :=
  ⟨_, h, by rwa [State.writeResult_reg_self], s.writeResult_condReflects dr v, s.writeResult_pc dr v,
    s.writeResult_regsKept dr v, s.writeResult_restKept dr v⟩

/-- Settles O13: the word sum is the sum modulo 65,536. -/
theorem addBothForms : Obligations.AddBothForms := by
  refine ⟨fun _ => decode_addReg, fun _ => decode_addImm, fun dr sr1 sr2 s => ?_, fun dr sr1 imm5 s => ?_⟩
  · exact exec_meets_of_writeResult (fun v => v.toNat = ((s.reg sr1).toNat + (s.reg sr2).toNat) % 65536) rfl
      (BitVec.toNat_add _ _)
  · exact exec_meets_of_writeResult (fun v => v.toNat = ((s.reg sr1).toNat + (sext imm5).toNat) % 65536) rfl
      (BitVec.toNat_add _ _)

/-- Settles O14, bit by bit. -/
theorem andBothForms : Obligations.AndBothForms := by
  refine ⟨fun _ => decode_andReg, fun _ => decode_andImm, fun dr sr1 sr2 s => ?_, fun dr sr1 imm5 s => ?_⟩
  · exact exec_meets_of_writeResult (fun v => ∀ k, v.getLsbD k = ((s.reg sr1).getLsbD k && (s.reg sr2).getLsbD k)) rfl
      (fun _ => BitVec.getLsbD_and)
  · exact exec_meets_of_writeResult (fun v => ∀ k, v.getLsbD k = ((s.reg sr1).getLsbD k && (sext imm5).getLsbD k)) rfl
      (fun _ => BitVec.getLsbD_and)

/-- Settles O15: the complement of a word is its distance to 65,535, and complementing twice gives the word back. -/
theorem notComplements : Obligations.NotComplements := by
  refine ⟨fun _ row => decode_not (field_of_masked row rfl), fun dr sr s => ?_, fun r s t u first second => ?_⟩
  · exact exec_meets_of_writeResult (fun v => v.toNat = 65535 - (s.reg sr).toNat) rfl BitVec.toNat_not
  · obtain rfl : s.writeResult r (~~~ s.reg r) = t := Host.Outcome.next.inj first
    obtain rfl : State.writeResult _ r (~~~ State.reg _ r) = u := Host.Outcome.next.inj second
    rw [State.writeResult_reg_self, State.writeResult_reg_self, BitVec.not_not]

end Sys2Proof.Machine
end

section
/-! BR, JMP, JSR and JSRR (spec/41_control.md R141 to R144). Each only sets PC, JSR and JSRR after linking `R7`, so COND and
the frame are those of these two updates; what is its own is the target. -/

namespace Sys2Proof.Machine

/-! ### The frames of setPc and link -/

theorem State.setPc_regsKept (s : State) (target : Word) : regsKeptBut [] s (s.setPc target) :=
  fun q _ => s.setPc_reg target q

theorem State.setPc_restKept (s : State) (target : Word) : restKept s (s.setPc target) :=
  ⟨s.setPc_cell target, ⟨rfl, rfl, rfl⟩, ⟨rfl, rfl⟩, ⟨rfl, rfl⟩, rfl⟩

theorem State.link_reg_of_ne (s : State) {q : Reg} (other : q ≠ 7) : s.link.reg q = s.reg q :=
  s.setReg_reg_of_ne s.pc other

theorem State.link_regsKept (s : State) : regsKeptBut [7] s s.link :=
  fun _ other => s.link_reg_of_ne (List.ne_of_not_mem_cons other)

theorem State.link_restKept (s : State) : restKept s s.link :=
  ⟨s.link_cell, ⟨rfl, rfl, rfl⟩, ⟨rfl, rfl⟩, ⟨rfl, rfl⟩, rfl⟩

/-! ### The statements about control transfer -/

/-- R141, taken or not: BR sets PC, to the value it has already where the branch is not taken. -/
theorem exec_br_eq_setPc (n z p : Bool) (offset9 : BitVec 9) (s : State) :
    exec (.br n z p offset9) s =
      .next (s.setPc (if branchTaken n z p s.cond then s.pcRelative offset9 else s.pc)) := by
  by_cases taken : branchTaken n z p s.cond = true
  · rw [if_pos taken]
    exact congrArg Host.Outcome.next (if_pos taken)
  · rw [if_neg taken]
    exact congrArg Host.Outcome.next (if_neg taken)

/-- How a subroutine call, which links and then sets PC, meets its statement: `goesTo` is what is said of the target. -/
theorem exec_meets_of_link_setPc {i : Instr} {s : State} {target : Word} (goesTo : Word → Prop)
    (h : exec i s = .next (s.link.setPc target)) (ht : goesTo target) :
    ∃ t, exec i s = .next t ∧ t.reg 7 = s.pc ∧ goesTo t.pc ∧ t.cond = s.cond ∧ regsKeptBut [7] s t ∧ restKept s t :=
  ⟨_, h, s.link_reg_seven, ht, s.link_cond, s.link_regsKept, s.link_restKept⟩

/-- Settles O16: `branchTaken_iff` reads the mask of R141 as its three cases. -/
theorem brBranchesOnItsCondition : Obligations.BrBranchesOnItsCondition := by
  refine ⟨fun _ row => decode_br (field_of_masked row rfl), fun n z p offset9 s =>
    ⟨_, exec_br_eq_setPc n z p offset9 s, fun taken => ?_, fun notTaken => ?_, rfl, s.setPc_regsKept _,
      s.setPc_restKept _⟩⟩
  · rw [State.setPc_pc, if_pos ((branchTaken_iff n z p s.cond).2 taken)]
    exact BitVec.toNat_add _ _
  · rw [State.setPc_pc, if_neg fun taken => notTaken ((branchTaken_iff n z p s.cond).1 taken)]

/-- Settles O17: the one update is that of PC. -/
theorem jmpGoesToTheBaseRegister : Obligations.JmpGoesToTheBaseRegister :=
  ⟨fun _ row => decode_jmp (field_of_masked row rfl), fun baseR s =>
    ⟨_, rfl, s.setPc_pc (s.reg baseR), rfl, s.setPc_regsKept _, s.setPc_restKept _⟩⟩

/-- Settles O18: the target is the word sum with the PC that is linked. -/
theorem jsrLinksAndBranches : Obligations.JsrLinksAndBranches :=
  ⟨fun _ => decode_jsrOffset, fun offset11 s =>
    exec_meets_of_link_setPc (fun target => target.toNat = (s.pc.toNat + (sext offset11).toNat) % 65536) rfl
      (BitVec.toNat_add _ _)⟩

/-- Settles O19: the base register is read after the link, which changes it only if it is `R7` (D15). -/
theorem jsrrLinksAndJumps : Obligations.JsrrLinksAndJumps := by
  refine ⟨fun _ => decode_jsrr, fun baseR s => ?_⟩
  have afterLink : (baseR ≠ 7 → s.link.reg baseR = s.reg baseR) ∧ (baseR = 7 → s.link.reg baseR = s.pc) :=
    ⟨s.link_reg_of_ne, fun seven => seven ▸ s.link_reg_seven⟩
  obtain ⟨t, next, linked, ⟨other, seven⟩, kept⟩ := exec_meets_of_link_setPc (i := .jsrr baseR)
    (fun target => (baseR ≠ 7 → target = s.reg baseR) ∧ (baseR = 7 → target = s.pc)) rfl afterLink
  exact ⟨t, next, linked, other, seven, kept⟩

end Sys2Proof.Machine
end

section
/-! LD, LDI, LDR, LEA, ST, STI and STR (spec/42_load_store.md R151 to R157). A load ends in `State.loadTo` and a store in
`State.memWrite`, from the state itself or, in the indirect mode, from the state after the pointer's read, which differs
from it in the keyboard only. LEA is a `State.writeResult`. -/

namespace Sys2Proof.Machine

/-! ### The frames of loadTo and memWrite -/

theorem State.loadTo_reg_self (s : State) (dr : Reg) (ea : Word) : (s.loadTo dr ea).reg dr = (s.memRead ea).1 :=
  (s.reg_loadTo dr dr ea).trans (if_pos rfl)

/-- R29: COND reflects the value read. -/
theorem State.loadTo_condReflects (s : State) (dr : Reg) (ea : Word) :
    condReflects (s.loadTo dr ea).cond (s.memRead ea).1 :=
  s.loadTo_cond dr ea ▸ condOf_reflects _

theorem State.loadTo_regsKept (s : State) (dr : Reg) (ea : Word) : regsKeptBut [dr] s (s.loadTo dr ea) :=
  fun q other => (s.reg_loadTo dr q ea).trans (if_neg (List.ne_of_not_mem_cons other))

theorem State.loadTo_controlKept (s : State) (dr : Reg) (ea : Word) : controlKept s (s.loadTo dr ea) :=
  ⟨s.loadTo_run dr ea, s.loadTo_fault dr ea, s.loadTo_wait dr ea⟩

theorem State.loadTo_hostKept (s : State) (dr : Reg) (ea : Word) : hostKept s (s.loadTo dr ea) :=
  ⟨s.loadTo_cfg dr ea, s.loadTo_arrivals dr ea⟩

/-- A load leaves the keyboard as its read does. -/
theorem State.loadTo_keyboardKept (s : State) (dr : Reg) (ea : Word) : keyboardKept (s.memRead ea).2 (s.loadTo dr ea) :=
  ⟨s.loadTo_kbq dr ea, s.loadTo_draws dr ea⟩

theorem State.memWrite_memoryKept_of_device (s : State) {ea : Word} (v : Word) (device : s.isDevice ea = true) :
    memoryKept s (s.memWrite ea v) :=
  fun a => congrArg (State.cell · a) (State.memWrite_device device v)

theorem State.memWrite_regsKept (s : State) (ea v : Word) : regsKeptBut [] s (s.memWrite ea v) :=
  fun q _ => s.memWrite_reg ea v q

theorem State.memWrite_devicesKept (s : State) (ea v : Word) : devicesKept s (s.memWrite ea v) :=
  ⟨⟨s.memWrite_run ea v, s.memWrite_fault ea v, s.memWrite_wait ea v⟩, ⟨s.memWrite_cfg ea v, s.memWrite_arrivals ea v⟩,
    ⟨s.memWrite_kbq ea v, s.memWrite_draws ea v⟩, s.memWrite_out ea v⟩

/-! ### The statements about loads -/

/-- How a load meets its statement: it ends in a `loadTo` from a state `u` that earlier reads may have led to. -/
theorem exec_meets_of_loadTo {i : Instr} {s u : State} {dr : Reg} {ea : Word} (reads : s.sameButKeys u)
    (h : exec i s = .next (u.loadTo dr ea)) :
    ∃ t, exec i s = .next t ∧
      t.reg dr = (u.memRead ea).1 ∧ condReflects t.cond (u.memRead ea).1 ∧ t.pc = s.pc ∧ regsKeptBut [dr] s t ∧
      memoryKept s t ∧ controlKept s t ∧ hostKept s t ∧ t.out = s.out ∧ keyboardKept (u.memRead ea).2 t := by
  obtain ⟨kbq, draws, rfl⟩ : ∃ kbq draws, u = { s with kbq := kbq, draws := draws } := ⟨_, _, reads⟩
  exact ⟨_, h, State.loadTo_reg_self _ dr ea, State.loadTo_condReflects _ dr ea, State.loadTo_pc _ dr ea,
    State.loadTo_regsKept _ dr ea, State.loadTo_cell _ dr ea, State.loadTo_controlKept _ dr ea,
    State.loadTo_hostKept _ dr ea, State.loadTo_out _ dr ea, State.loadTo_keyboardKept _ dr ea⟩

/-- Settles O20: a load with no read before it. -/
theorem ldLoadsPcRelative : Obligations.LdLoadsPcRelative :=
  ⟨fun _ row => decode_ld (field_of_masked row rfl), fun _ _ s => exec_meets_of_loadTo s.sameButKeys_refl rfl⟩

/-- Settles O21: the datum is read in the state after the pointer's read. -/
theorem ldiLoadsThroughThePointer : Obligations.LdiLoadsThroughThePointer :=
  ⟨fun _ row => decode_ldi (field_of_masked row rfl), fun _ offset9 s =>
    exec_meets_of_loadTo (s.memRead_sameButKeys (s.pcRelative offset9)) rfl⟩

/-- Settles O22: the address is an argument of the load, so it is computed before `DR` is written. -/
theorem ldrLoadsBasePlusOffset : Obligations.LdrLoadsBasePlusOffset :=
  ⟨fun _ row => decode_ldr (field_of_masked row rfl), fun _ _ _ s => exec_meets_of_loadTo s.sameButKeys_refl rfl⟩

/-- Settles O23: the result is the address, the word sum. -/
theorem leaLoadsTheAddress : Obligations.LeaLoadsTheAddress :=
  ⟨fun _ row => decode_lea (field_of_masked row rfl), fun _ offset9 s =>
    exec_meets_of_writeResult (fun v => v.toNat = (s.pc.toNat + (sext offset9).toNat) % 65536) rfl
      (BitVec.toNat_add _ _)⟩

/-! ### The statements about stores -/

/-- How a store meets its statement: it ends in a `memWrite` from a state `u` that earlier reads may have led to. -/
theorem exec_meets_of_memWrite {i : Instr} {s u : State} {ea v : Word} (reads : s.sameButKeys u)
    (h : exec i s = .next (u.memWrite ea v)) :
    ∃ t, exec i s = .next t ∧
      (s.mem.wf = true → s.isDevice ea = false → t.cell ea = v) ∧ (s.isDevice ea = true → memoryKept s t) ∧
      (∀ a : Word, a ≠ ea → t.cell a = s.cell a) ∧
      t.pc = s.pc ∧ t.cond = s.cond ∧ regsKeptBut [] s t ∧ devicesKept u t := by
  obtain ⟨kbq, draws, rfl⟩ : ∃ kbq draws, u = { s with kbq := kbq, draws := draws } := ⟨_, _, reads⟩
  have stored (canonical : s.mem.wf = true) (ordinary : s.isDevice ea = false) :=
    State.cell_memWrite_self (s := { s with kbq := kbq, draws := draws }) canonical ordinary v
  exact ⟨_, h, stored, fun device => State.memWrite_memoryKept_of_device _ v device,
    fun _ other => State.cell_memWrite_of_ne _ v other, State.memWrite_pc _ ea v, State.memWrite_cond _ ea v,
    State.memWrite_regsKept _ ea v, State.memWrite_devicesKept _ ea v⟩

/-- Settles O24: a store with no read before it. -/
theorem stStoresPcRelative : Obligations.StStoresPcRelative :=
  ⟨fun _ row => decode_st (field_of_masked row rfl), fun _ _ s => exec_meets_of_memWrite s.sameButKeys_refl rfl⟩

/-- Settles O25: the store changes nothing of the devices, so they are as the pointer's read leaves them. -/
theorem stiStoresThroughThePointer : Obligations.StiStoresThroughThePointer := by
  refine ⟨fun _ row => decode_sti (field_of_masked row rfl), fun sr offset9 s => ?_⟩
  have reads : s.sameButKeys (s.indirect offset9).2 := s.memRead_sameButKeys (s.pcRelative offset9)
  obtain ⟨t, next, stored, dropped, others, pc, cond, regs, control, host, keyboard, out⟩ :=
    exec_meets_of_memWrite (i := .sti sr offset9) reads rfl
  rw [reads] at control host out
  exact ⟨t, next, stored, dropped, others, pc, cond, regs, control, host, out, keyboard⟩

/-- Settles O26: the word stored is read from the state before the store, also when `SR = BaseR`. -/
theorem strStoresBasePlusOffset : Obligations.StrStoresBasePlusOffset :=
  ⟨fun _ row => decode_str (field_of_masked row rfl), fun _ _ _ s => exec_meets_of_memWrite s.sameButKeys_refl rfl⟩

end Sys2Proof.Machine
end

section
/-! TRAP (spec/43_trap.md): GETC and IN with the two phases of their key wait (R172, R175, R182), OUT (R173), HALT (R177),
and the reserved opcodes RTI and RES (R179, R180). GETC and IN both link `R7`, write some bytes (GETC none) and then await a
key, so what they do at issue is said once, for any bytes and either routine. -/

namespace Sys2Proof.Machine

/-! ### The frame of phase 2 of a key wait (R182) -/

theorem regsKeptBut.trans {rs qs : List Reg} {s t u : State} (first : regsKeptBut rs s t) (second : regsKeptBut qs t u) :
    regsKeptBut (rs ++ qs) s u := fun r other =>
  (second r (other <| List.mem_append_right rs ·)).trans (first r (other <| List.mem_append_left qs ·))

theorem State.completeKeyWait_regsKept (s : State) (w : Wait) : regsKeptBut [0] s (s.completeKeyWait w) := by
  intro r other
  have apart : ¬ (0 : Reg).val = r.val := fun e => List.ne_of_not_mem_cons other (Fin.ext e.symm)
  simp only [State.reg, State.completeKeyWait_regs]
  exact Vector.getElem_set_ne _ _ apart

theorem State.completeKeyWait_memoryKept (s : State) (w : Wait) : memoryKept s (s.completeKeyWait w) := fun a => by
  rw [State.cell, State.cell, State.completeKeyWait_mem]

theorem State.completeKeyWait_hostKept (s : State) (w : Wait) : hostKept s (s.completeKeyWait w) :=
  ⟨s.completeKeyWait_cfg w, s.completeKeyWait_arrivals w⟩

/-! ### What phase 2 does with the head key -/

section
variable {s : State} {key : Byte} {rest : List Byte} (distinct : s.cfg.wf) (queue : s.kbq = key :: rest) (w : Wait)
include distinct queue

theorem State.completeKeyWait_toNat_reg_zero : ((s.completeKeyWait w).reg 0).toNat = key.toNat := by
  rw [State.completeKeyWait_pending distinct queue, State.setWait_reg, State.setReg_reg_self, toNat_zext8]

theorem State.completeKeyWait_kbq_eq_rest : (s.completeKeyWait w).kbq = rest := by
  rw [State.completeKeyWait_pending distinct queue]; rfl

theorem State.completeKeyWait_echoes : (s.completeKeyWait w).out = s.out ++ (if w = .inKey then [key] else []) := by
  rw [State.completeKeyWait_pending distinct queue]; rfl

/-- With a key pending no unspecified word is drawn. -/
theorem State.completeKeyWait_draws_eq : (s.completeKeyWait w).draws = s.draws := by
  rw [State.completeKeyWait_pending distinct queue]; rfl

/-- Phase 2 overwrites WAIT without looking at it. -/
theorem State.completeKeyWait_setWait (v : Wait) : (s.setWait v).completeKeyWait w = s.completeKeyWait w := by
  rw [State.completeKeyWait_pending distinct queue, State.completeKeyWait_pending (s := s.setWait v) distinct queue]; rfl

end

theorem resumeWait_pending {s : State} (pending : s.kbq ≠ []) (w : Wait) :
    resumeWait w s = .next (s.completeKeyWait w) := if_pos (s.keyPending_iff.2 pending)

/-! ### Issuing GETC or IN: link, write some bytes, await a key -/

theorem State.consoleOut_nil (s : State) : s.consoleOut [] = s := by rw [State.consoleOut, List.append_nil]

/-- GETC writes nothing before it waits. -/
theorem exec_trapGetc_eq (s : State) : exec .trapGetc s = .next ((s.link.consoleOut []).awaitKey .getc) := by
  rw [State.consoleOut_nil]; rfl

section
variable {i : Instr} {s : State} {bs : List Byte} {w : Wait}

/-- Issue with a key pending: phase 2 follows in the same step, so it may write `R0` beside the linked `R7`. -/
theorem exec_meets_of_awaitKey_pending (h : exec i s = .next ((s.link.consoleOut bs).awaitKey w)) (distinct : s.cfg.wf)
    {key : Byte} {rest : List Byte} (queue : s.kbq = key :: rest) :
    ∃ t, exec i s = .next t ∧
      t.reg 7 = s.pc ∧ (t.reg 0).toNat = key.toNat ∧ t.kbq = rest ∧
      t.out = s.out ++ bs ++ (if w = .inKey then [key] else []) ∧
      t.wait = .none ∧ t.draws = s.draws ∧ regsKeptBut [7, 0] s t ∧ t.pc = s.pc ∧ t.cond = s.cond ∧ memoryKept s t ∧
      t.run = s.run ∧ t.fault = s.fault ∧ hostKept s t := by
  have wf : (s.link.consoleOut bs).cfg.wf := distinct
  have queued : (s.link.consoleOut bs).kbq = key :: rest := queue
  have pending : (s.link.consoleOut bs).kbq ≠ [] := queued ▸ List.cons_ne_nil key rest
  have kept := State.completeKeyWait_regsKept (s.link.consoleOut bs) w
  rw [State.awaitKey_pending pending] at h
  exact ⟨_, h, (kept 7 (by decide)).trans s.link_reg_seven, State.completeKeyWait_toNat_reg_zero wf queued w,
    State.completeKeyWait_kbq_eq_rest wf queued w, State.completeKeyWait_echoes wf queued w,
    State.completeKeyWait_wait _ w, State.completeKeyWait_draws_eq wf queued w, s.link_regsKept.trans kept,
    State.completeKeyWait_pc _ w, State.completeKeyWait_cond _ w, State.completeKeyWait_memoryKept _ w,
    State.completeKeyWait_run _ w, State.completeKeyWait_fault _ w, State.completeKeyWait_hostKept _ w⟩

/-- Issue with no key pending: the core is suspended, and `R0` and the keyboard are untouched. -/
theorem exec_meets_of_awaitKey_empty (h : exec i s = .next ((s.link.consoleOut bs).awaitKey w)) (empty : s.kbq = []) :
    ∃ t, exec i s = .next t ∧
      t.reg 7 = s.pc ∧ t.wait = w ∧ t.out = s.out ++ bs ∧ keyboardKept s t ∧
      regsKeptBut [7] s t ∧ t.pc = s.pc ∧ t.cond = s.cond ∧ memoryKept s t ∧
      t.run = s.run ∧ t.fault = s.fault ∧ hostKept s t := by
  rw [State.awaitKey_empty (s := s.link.consoleOut bs) empty] at h
  exact ⟨_, h, s.link_reg_seven, rfl, rfl, ⟨rfl, rfl⟩, s.link_regsKept, rfl, rfl, s.link_cell, rfl, rfl, rfl, rfl⟩

end

/-- Suspension, arrival and completion end where arrival and the end of phase 1 do (D9): phase 2 takes the key in both,
and does not look at the WAIT that the suspension has set. -/
theorem State.resumeWait_awaitKey_keyArrives {s : State} (distinct : s.cfg.wf) (empty : s.kbq = [])
    (w : Wait) (key : Byte) : resumeWait w ((s.awaitKey w).keyArrives key) =
      .next ((s.keyArrives key).awaitKey w) := by
  have wf : (s.keyArrives key).cfg.wf := distinct
  have queue : (s.keyArrives key).kbq = [key] := congrArg (· ++ [key]) empty
  have pending : (s.keyArrives key).kbq ≠ [] := queue ▸ List.cons_ne_nil key []
  have arrived : (s.awaitKey w).keyArrives key = (s.keyArrives key).setWait w := by
    rw [State.awaitKey_empty empty]; rfl
  rw [arrived, resumeWait_pending (s := (s.keyArrives key).setWait w) pending,
    State.completeKeyWait_setWait wf queue, State.awaitKey_pending pending]

/-! ### The statements about GETC, IN and their wait -/

/-- Settles O27: GETC writes nothing before its wait and does not echo. -/
theorem getcTakesAKeyOrWaits : Obligations.GetcTakesAKeyOrWaits := by
  refine ⟨fun _ row => decode_trapVector (v := 0x20) row, fun s distinct => ⟨fun key rest queue => ?_, fun empty => ?_⟩⟩
  · obtain ⟨t, next, linked, read, kbq, out, wait, draws, regs, pc, cond, memory, run, fault, host⟩ :=
      exec_meets_of_awaitKey_pending (exec_trapGetc_eq s) distinct queue
    have silent : t.out = s.out := by simpa using out
    exact ⟨t, next, linked, read, kbq, wait, draws, regs, pc, cond, silent, memory, run, fault, host⟩
  · obtain ⟨t, next, linked, wait, out, keyboard, regs, pc, cond, memory, run, fault, host⟩ :=
      exec_meets_of_awaitKey_empty (exec_trapGetc_eq s) empty
    rw [List.append_nil] at out
    exact ⟨t, next, linked, wait, keyboard, regs, pc, cond, out, memory, run, fault, host⟩

/-- Settles O30: IN writes its prompt before its wait, and echoes. -/
theorem inPromptsAndEchoes : Obligations.InPromptsAndEchoes :=
  ⟨fun _ row => decode_trapVector (v := 0x23) row, fun _ distinct =>
    ⟨fun _ _ queue => exec_meets_of_awaitKey_pending (w := .inKey) rfl distinct queue,
      fun empty => exec_meets_of_awaitKey_empty rfl empty⟩⟩

/-- Settles O46: the keys of this step's slot are queued, and then phase 2 takes the head key. -/
theorem keyWaitCompletes : Obligations.KeyWaitCompletes := by
  intro s key rest running waiting distinct queue
  have delivered : s.deliverKeys = { s with kbq := key :: rest, arrivals := s.arrivals.tail } :=
    queue ▸ s.deliverKeys_eq
  have wf : ({ s with kbq := key :: rest, arrivals := s.arrivals.tail } : State).cfg.wf := distinct
  rw [step_waiting running waiting, delivered]
  exact ⟨_, resumeWait_pending (List.cons_ne_nil key rest) s.wait, rfl, State.completeKeyWait_toNat_reg_zero wf rfl _,
    State.completeKeyWait_kbq_eq_rest wf rfl _, State.completeKeyWait_echoes wf rfl _,
    State.completeKeyWait_regsKept _ _, State.completeKeyWait_pc _ _, State.completeKeyWait_cond _ _,
    State.completeKeyWait_memoryKept _ _, (State.completeKeyWait_run _ _).trans running, State.completeKeyWait_fault _ _,
    State.completeKeyWait_cfg _ _, State.completeKeyWait_arrivals _ _⟩

/-- Settles O48: link and prompt commute with the arrival of a key, and so does the wait. -/
theorem suspensionCannotBeSeen : Obligations.SuspensionCannotBeSeen := by
  refine fun s u t key distinct _ empty => ⟨fun issued atOnce => ?_, fun issued atOnce => ?_⟩
  · obtain rfl : s.link.awaitKey .getc = u := Host.Outcome.next.inj issued
    obtain rfl : (s.link.keyArrives key).awaitKey .getc = t := Host.Outcome.next.inj atOnce
    exact State.resumeWait_awaitKey_keyArrives (s := s.link) distinct empty .getc key
  · obtain rfl : (s.link.consoleOut s.cfg.inPrompt).awaitKey .inKey = u := Host.Outcome.next.inj issued
    obtain rfl : ((s.link.consoleOut s.cfg.inPrompt).keyArrives key).awaitKey .inKey = t := Host.Outcome.next.inj atOnce
    exact State.resumeWait_awaitKey_keyArrives (s := s.link.consoleOut s.cfg.inPrompt) distinct empty .inKey key

/-! ### OUT and HALT -/

/-- Settles O28: the link leaves `R0` alone, and its low byte is its remainder modulo 256. -/
theorem outWritesTheLowByte : Obligations.OutWritesTheLowByte := by
  refine ⟨fun _ row => decode_trapVector (v := 0x21) row, fun s => ⟨_, rfl, s.link_reg_seven, ?_, s.link_regsKept,
    rfl, rfl, s.link_cell, ⟨rfl, rfl, rfl⟩, ⟨rfl, rfl⟩, ⟨rfl, rfl⟩⟩⟩
  exact ⟨lowByte (s.reg 0), toNat_lowField (s.reg 0) 8, by rw [State.consoleOut_out, State.link_reg_zero, State.link_out]⟩

/-- Settles O32: a halted core without a recorded fault has exit status 0, and a halted core takes no step. -/
theorem haltStopsTheCore : Obligations.HaltStopsTheCore := by
  refine ⟨fun _ row => decode_trapVector (v := 0x25) row, fun s => ⟨_, rfl, s.link_reg_seven, rfl, rfl, rfl,
    s.link_regsKept, rfl, rfl, s.link_cell, rfl, ⟨rfl, rfl⟩, ⟨rfl, rfl⟩, fun noFault => ?_, step_halted rfl⟩⟩
  simp [State.exitStatus, noFault]

/-! ### The reserved opcodes -/

theorem opcode_append_ignored {w : Word} {op : BitVec 4} (opcode : opcodeField w = op) : op ++ w.extractLsb' 0 12 = w :=
  opcode ▸ (word_eq_opcode_append w).symm

/-- How an instruction that only raises the fatal error meets its statement: the frame is that of `raiseFatal`. -/
theorem exec_meets_of_raiseFatal {i : Instr} {s : State} {kind : FaultKind} {word : Word}
    (h : exec i s = .next (s.raiseFatal kind word)) :
    ∃ t, exec i s = .next t ∧ t.fault = some ⟨kind, s.pc - 1, word⟩ ∧ t.run = .halted ∧
      regsKeptBut [] s t ∧ t.pc = s.pc ∧ t.cond = s.cond ∧ memoryKept s t ∧ t.wait = s.wait ∧
      hostKept s t ∧ keyboardKept s t ∧ t.out = s.out :=
  ⟨_, h, rfl, rfl, fun r _ => s.raiseFatal_reg kind word r, rfl, rfl, s.raiseFatal_cell kind word, rfl, ⟨rfl, rfl⟩,
    ⟨rfl, rfl⟩, rfl⟩

/-- Settles O34: the two rows keep the ignored bits, so the word is recovered from the instruction. -/
theorem reservedOpcodesAreFatal : Obligations.ReservedOpcodesAreFatal := by
  refine ⟨fun w row => ?_, fun w row => ?_, fun _ _ => exec_meets_of_raiseFatal rfl,
    fun _ _ => exec_meets_of_raiseFatal rfl⟩
  · have opcode : opcodeField w = 0x8#4 := field_of_masked row rfl
    rw [decode_rti opcode]
    exact ⟨rfl, opcode_append_ignored opcode⟩
  · have opcode : opcodeField w = 0xD#4 := field_of_masked row rfl
    rw [decode_res opcode]
    exact ⟨rfl, opcode_append_ignored opcode⟩

end Sys2Proof.Machine
end

section
/-! Fatal errors (spec/60_exceptions.md): what the fatal rows and the TRAPs change (R202, R210), that the fault record stays
true (R201, R202, R209), and that no instruction blocks for good (R205). For the last, the walk of PUTS and PUTSP is given a
bound that every non-zero read lowers (log entry 8). -/

namespace Sys2Proof

/-! ### Which vectors and which instructions -/

theorem Instr.keeps_cond_and_memory_of_isTrap {i : Instr} (trap : i.isTrap = true) :
    i.setsCond = false ∧ i.stores = false := by
  cases i with
  | trapGetc | trapOut | trapPuts | trapIn | trapPutsp | trapHalt | trapUnknown _ _ => exact ⟨rfl, rfl⟩
  | _ => cases trap

theorem definedVector_iff_toNat (v : BitVec 8) : definedVector v = true ↔ 0x20 ≤ v.toNat ∧ v.toNat ≤ 0x25 := by
  simp [definedVector, BitVec.le_def]

end Sys2Proof

namespace Sys2Proof.Machine

/-! ### An unknown TRAP -/

/-- Settles O33: the row keeps `ir[11:8]` and the vector, so the word is recovered; the effects are a link and the error. -/
theorem unknownTrapIsFatal : Obligations.UnknownTrapIsFatal := by
  refine ⟨fun w row outside => ?_, fun ignored vect s => ⟨_, rfl, rfl, rfl, s.link_reg_seven, s.link_regsKept, rfl, rfl,
    s.link_cell, rfl, ⟨rfl, rfl⟩, ⟨rfl, rfl⟩, rfl⟩⟩
  have opcode : opcodeField w = 0xF#4 := field_of_masked row rfl
  have vector : (trapvectField w).toNat = w.toNat % 256 := toNat_lowField w 8
  have undefined : ¬ definedVector (trapvectField w) = true := by
    rw [definedVector_iff_toNat, vector]
    omega
  have rebuilt : 0xF#4 ++ w.extractLsb' 8 4 ++ trapvectField w = w := opcode ▸ (word_eq_trap_append w).symm
  rw [decode_trap opcode, decodeTrap_of_not_definedVector undefined]
  exact ⟨rfl, rebuilt⟩

/-! ### The fault record -/

theorem State.faultRecordTrue_of_fault_none {s : State} (noFault : s.fault = none) : s.faultRecordTrue :=
  fun _ recorded => nomatch noFault.symm.trans recorded

/-- A running core has no fault to record. -/
theorem State.faultRecordTrue.fault_none {s : State} (h : s.faultRecordTrue) (running : s.run = .running) :
    s.fault = none :=
  Option.eq_none_iff_forall_ne_some.2 fun f recorded => nomatch running.symm.trans (h f recorded).1

/-- R201: the record of an illegal opcode is true if the word has one. -/
theorem State.raiseFatal_illegalOpcode_faultRecordTrue (s : State) {word : Word}
    (opcode : opcodeField word = 0x8 ∨ opcodeField word = 0xD) :
    (s.raiseFatal .illegalOpcode word).faultRecordTrue := by
  intro f recorded
  obtain rfl := Option.some.inj recorded
  exact ⟨rfl, (BitVec.sub_add_cancel s.pc 1).symm, opcode⟩

/-- R202: the record of an unknown vector is true if the word has one and `R7` has been written. -/
theorem State.raiseFatal_unknownTrapVector_faultRecordTrue {s : State} {word : Word} (opcode : opcodeField word = 0xF)
    (undefined : ¬ definedVector (trapvectField word) = true) (linked : s.reg 7 = s.pc) :
    (s.raiseFatal .unknownTrapVector word).faultRecordTrue := by
  intro f recorded
  obtain rfl := Option.some.inj recorded
  exact ⟨rfl, (BitVec.sub_add_cancel s.pc 1).symm, opcode, (definedVector_iff_toNat _).not.1 undefined, linked⟩

/-- Each fatal row leaves a true record: its encoding holds the row's opcode, and TRAP.unknown's the vector. -/
theorem exec_fatal_faultRecordTrue {i : Instr} {s t : State} (h : exec i s = .next t) (fatal : i.raisesFatal = true)
    (wf : i.wf = true) : t.faultRecordTrue := by
  cases i with
  | rti ignored =>
    obtain rfl := Host.Outcome.next.inj h
    exact s.raiseFatal_illegalOpcode_faultRecordTrue (.inl (fields_reserved 0x8#4 ignored).1)
  | res ignored =>
    obtain rfl := Host.Outcome.next.inj h
    exact s.raiseFatal_illegalOpcode_faultRecordTrue (.inr (fields_reserved 0xD#4 ignored).1)
  | trapUnknown ignored v =>
    obtain rfl := Host.Outcome.next.inj h
    obtain ⟨opcode, -, low⟩ := fields_trap 0xF#4 ignored v
    have vector : trapvectField (encode (.trapUnknown ignored v)) = v := low
    have undefined : ¬ definedVector v = true := by simpa [Instr.wf] using wf
    exact State.raiseFatal_unknownTrapVector_faultRecordTrue opcode (by rwa [vector]) s.link_reg_seven
  | _ => cases fatal

/-- Settles O56: only a fatal row records a fault, since a core that takes a step has none recorded. -/
theorem stepKeepsTheFaultRecordTrue : Obligations.StepKeepsTheFaultRecordTrue := by
  intro s t trueBefore h
  obtain ⟨running, taken⟩ := step_cases h
  have noFault : s.deliverKeys.fault = none := by
    rw [State.deliverKeys_eq]
    exact trueBefore.fault_none running
  obtain ⟨-, executed⟩ | ⟨-, -, rfl⟩ | ⟨-, -, -, rfl⟩ := taken
  · cases fatal : (decode s.deliverKeys.fetch.1).raisesFatal with
    | true => exact exec_fatal_faultRecordTrue executed fatal (decode_wf _)
    | false =>
      refine State.faultRecordTrue_of_fault_none ((exec_fault_kept executed fatal).trans ?_)
      rw [State.fetch_snd, State.setPc_fault, State.memRead_fault, noFault]
  · exact State.faultRecordTrue_of_fault_none ((State.completeKeyWait_fault _ _).trans noFault)
  · exact State.faultRecordTrue_of_fault_none noFault

/-! ### What a TRAP leaves in PC and `R7` (R170) -/

/-- PC and `R7` stand as the link left them. -/
def State.linkedAt (t : State) (pc : Word) : Prop := t.reg 7 = pc ∧ t.pc = pc

theorem State.link_linkedAt (s : State) : s.link.linkedAt s.pc := ⟨s.link_reg_seven, rfl⟩

/-- The key wait writes no register but `R0`. -/
theorem State.linkedAt.awaitKey {s : State} {pc : Word} (linked : s.linkedAt pc) (w : Wait) :
    (s.awaitKey w).linkedAt pc := by
  obtain ⟨hreg, hpc⟩ := linked
  obtain ⟨-, e⟩ | ⟨-, e⟩ := s.awaitKey_cases w <;> rw [e]
  · exact ⟨(s.completeKeyWait_regsKept w 7 (by decide)).trans hreg, (s.completeKeyWait_pc w).trans hpc⟩
  · exact ⟨hreg, hpc⟩

/-- The string walk writes no register. -/
theorem State.linkedAt.writeString {s t : State} {pc : Word} (linked : s.linkedAt pc) {chars : Word → List Byte}
    (h : s.writeString chars = .next t) : t.linkedAt pc := by
  obtain ⟨same, -⟩ := State.walkString_frame (State.writeString_next_iff.1 h)
  rw [same]
  exact linked

/-- Every TRAP links first, and none of the routines undoes it. -/
theorem exec_trap_linkedAt {i : Instr} {s t : State} (h : exec i s = .next t) (trap : i.isTrap = true) :
    t.linkedAt s.pc := by
  have linked := s.link_linkedAt
  cases i with
  | trapGetc => obtain rfl := Host.Outcome.next.inj h; exact linked.awaitKey .getc
  | trapIn =>
    obtain rfl := Host.Outcome.next.inj h
    exact State.linkedAt.awaitKey (s := s.link.consoleOut s.cfg.inPrompt) linked .inKey
  | trapPuts | trapPutsp => exact linked.writeString h
  | trapOut | trapHalt | trapUnknown _ _ => obtain rfl := Host.Outcome.next.inj h; exact linked
  | _ => cases trap

/-- Settles O39: the rules of every TRAP, then the two statements about the fatal rows. -/
theorem whatAFatalErrorAndATrapChange : Obligations.WhatAFatalErrorAndATrapChange := by
  refine ⟨fun _ _ _ => rfl, fun i s t h trap => ?_, fun _ _ _ => exec_fault_kept, fun i s fatal => ?_⟩
  · obtain ⟨neitherCond, norMemory⟩ := Instr.keeps_cond_and_memory_of_isTrap trap
    obtain ⟨hreg, hpc⟩ := exec_trap_linkedAt h trap
    obtain ⟨memory, -⟩ := onlyStoresChangeMemory i s t h norMemory
    exact ⟨hreg, hpc, exec_cond_kept h neitherCond, memory⟩
  · obtain ⟨-, -, rti, res⟩ := reservedOpcodesAreFatal
    obtain ⟨-, unknown⟩ := unknownTrapIsFatal
    cases i with
    | rti ignored =>
      obtain ⟨t, next, fault, run, regs, pc, cond, memory, -⟩ := rti ignored s
      exact ⟨t, _, next, fault, run, memory, cond, pc, regs⟩
    | res ignored =>
      obtain ⟨t, next, fault, run, regs, pc, cond, memory, -⟩ := res ignored s
      exact ⟨t, _, next, fault, run, memory, cond, pc, regs⟩
    | trapUnknown ignored v =>
      obtain ⟨t, next, fault, run, -, regs, pc, cond, memory, -⟩ := unknown ignored v s
      exact ⟨t, _, next, fault, run, memory, cond, pc, regs⟩
    | _ => cases fatal

/-! ### The string walk ends (R205, log entry 8) -/

/-- One address further is one nearer to `target`, unless this is the target. -/
theorem toNat_sub_succ {target a : Word} (away : a ≠ target) : (target - (a + 1)).toNat < (target - a).toNat := by
  bv_omega

/-- Where the walk next meets the keyboard to some effect: at KBDR, where a read takes the pending key, or, with no key
pending, at KBSR, which reads zero. -/
def State.walkTarget (s : State) : Word := if s.kbq = [] then s.cfg.kbsrAddr else s.cfg.kbdrAddr

/-- A bound on the cell reads left for the walk from `a`: the way to the target, and a turn for each key. -/
def State.walkBound (s : State) (a : Word) : Nat := s.kbq.length * 65536 + (s.walkTarget - a).toNat

theorem State.walkBound_lt_walkFuel (s : State) (a : Word) : s.walkBound a < s.walkFuel := by
  have way := (s.walkTarget - a).isLt
  rw [State.walkBound, State.walkFuel]
  omega

/-- A read that takes no key, away from the target, leaves less of the way. -/
theorem State.walkBound_lt_of_same_keys {s u : State} {a : Word} (queue : u.kbq = s.kbq) (cfg : u.cfg = s.cfg)
    (away : a ≠ s.walkTarget) : u.walkBound (a + 1) < s.walkBound a := by
  have same : u.walkTarget = s.walkTarget := by rw [State.walkTarget, queue, cfg, State.walkTarget]
  rw [State.walkBound, State.walkBound, queue, same]
  exact Nat.add_lt_add_left (toNat_sub_succ away) _

/-- A key taken saves a turn, and the way to the new target is less than one. -/
theorem State.walkBound_lt_of_key_taken {s u : State} {key : Byte} (queue : s.kbq = key :: u.kbq) (a b : Word) :
    u.walkBound b < s.walkBound a := by
  have way := (u.walkTarget - b).isLt
  rw [State.walkBound, State.walkBound, queue, List.length_cons]
  omega

/-- A read that does not end the walk lowers the bound: it is away from the target, or it takes a key. -/
theorem State.walkBound_memRead_lt {s : State} (distinct : s.cfg.wf) {a : Word} (more : (s.memRead a).1 ≠ 0) :
    (s.memRead a).2.walkBound (a + 1) < s.walkBound a := by
  rcases s.memRead_cases a with ⟨kbsr, e⟩ | ⟨-, -, key, rest, queue, e⟩ | ⟨notKbsr, -, empty, e⟩ | ⟨ordinary, e⟩
  all_goals rw [e] at more ⊢
  · have pending : s.kbq ≠ [] := fun empty => more (s.kbsrValue_eq_zero_iff.2 empty)
    refine State.walkBound_lt_of_same_keys rfl rfl ?_
    rw [State.walkTarget, if_neg pending, kbsr]
    exact distinct.symm
  · exact State.walkBound_lt_of_key_taken queue a (a + 1)
  · refine State.walkBound_lt_of_same_keys rfl rfl ?_
    rwa [State.walkTarget, if_pos empty]
  · refine State.walkBound_lt_of_same_keys rfl rfl fun target => ?_
    have device : s.isDevice a = true := by
      rw [State.isDevice_iff, target, State.walkTarget]
      split
      · exact .inl rfl
      · exact .inr rfl
    exact Bool.false_ne_true (ordinary.symm.trans device)

/-- With distinct device addresses a walk that may make more reads than its bound ends. -/
theorem State.walkString_ends {chars : Word → List Byte} {n : Nat} {a : Word} {s : State} (distinct : s.cfg.wf)
    (enough : s.walkBound a < n) : ∃ t, State.walkString chars n a s = some t := by
  induction n generalizing a s with
  | zero => exact absurd enough (Nat.not_lt_zero _)
  | succ n ih =>
    rw [State.walkString_succ]
    by_cases zero : (s.memRead a).1 = 0
    · exact ⟨_, if_pos zero⟩
    · rw [if_neg zero]
      have lower : (s.memRead a).2.walkBound (a + 1) < n :=
        (State.walkBound_memRead_lt distinct zero).trans_le (Nat.le_of_lt_succ enough)
      exact ih (s := (s.memRead a).2.consoleOut (chars (s.memRead a).1)) ((s.memRead_cfg a).symm ▸ distinct) lower

theorem State.writeString_completes {s : State} (distinct : s.cfg.wf) (chars : Word → List Byte) :
    ∃ t, s.writeString chars = .next t := by
  obtain ⟨t, ended⟩ := State.walkString_ends distinct (s.walkBound_lt_walkFuel (s.reg 0))
  exact ⟨t, State.writeString_next_iff.2 ended⟩

/-- R205: no instruction blocks for good, faults or is refused. Only the string routines could. -/
theorem exec_completes {s : State} (distinct : s.cfg.wf) (i : Instr) : ∃ t, exec i s = .next t := by
  cases i with
  | trapPuts | trapPutsp => exact State.writeString_completes (s := s.link) distinct _
  | _ => exact ⟨_, rfl⟩

/-- Settles O49: the step is the fetched instruction, and fetching keeps the parameters. -/
theorem everyEnabledStepCompletes : Obligations.EveryEnabledStepCompletes := by
  intro s running ready distinct
  have kept : s.deliverKeys.fetch.2.cfg = s.cfg := by
    rw [State.fetch_snd, State.setPc_cfg, State.memRead_cfg, State.deliverKeys_eq]
  rw [step_fetch running ready]
  exact exec_completes (kept.symm ▸ distinct) _

end Sys2Proof.Machine
end

section
/-! Reset, the step and the end of a run (spec/70_reset_and_hazards.md): what a step of a running core executes, when a step
stops, the key wait over any number of steps, what reset leaves, and the exit status. -/

namespace Sys2Proof.Machine

/-! ### A waiting core to which no key has come (R182, R214) -/

theorem resumeWait_idle {s : State} (empty : s.kbq = []) (later : s.arrivals ≠ []) (w : Wait) :
    resumeWait w s = .next s := by simp [resumeWait, State.keyPending, empty, later]

theorem resumeWait_stuck {s : State} (empty : s.kbq = []) (spent : s.arrivals = []) (w : Wait) :
    resumeWait w s = .fault .keyNeverArrives := by simp [resumeWait, State.keyPending, empty, spent]

@[simp] theorem State.deliverKeys_kbq (s : State) : s.deliverKeys.kbq = s.kbq ++ s.arrivals.headD [] := by
  rw [State.deliverKeys_eq]

@[simp] theorem State.deliverKeys_arrivals (s : State) : s.deliverKeys.arrivals = s.arrivals.tail := by
  rw [State.deliverKeys_eq]

/-- With no key pending and none in the slot, delivery only uses the slot up. -/
theorem State.deliverKeys_of_no_key {s : State} (noKey : s.kbq ++ s.arrivals.headD [] = []) :
    s.deliverKeys = { s with arrivals := s.arrivals.tail } := by
  obtain ⟨empty, -⟩ := List.append_eq_nil_iff.mp noKey
  rw [State.deliverKeys_eq, noKey, ← empty]

/-- While slots are left, a step of a waiting core without a key only uses one up. -/
theorem step_idle {s : State} (running : s.run = .running) (waiting : s.wait ≠ .none)
    (noKey : s.kbq ++ s.arrivals.headD [] = []) (later : s.arrivals.tail ≠ []) :
    step s = .next { s with arrivals := s.arrivals.tail } := by
  rw [step_waiting running waiting, ← State.deliverKeys_of_no_key noKey]
  exact resumeWait_idle (s.deliverKeys_kbq.trans noKey) (by simpa using later) s.wait

/-! ### When a step stops -/

/-- The core waits, and no key is pending, in this step's slot, or in a later slot. -/
def State.KeyNeverComes (s : State) : Prop :=
  s.wait ≠ .none ∧ s.kbq ++ s.arrivals.headD [] = [] ∧ s.arrivals.tail = []

theorem step_of_keyNeverComes {s : State} (running : s.run = .running) (never : s.KeyNeverComes) :
    step s = .fault .keyNeverArrives := by
  obtain ⟨waiting, noKey, spent⟩ := never
  rw [step_waiting running waiting]
  exact resumeWait_stuck (s.deliverKeys_kbq.trans noKey) (s.deliverKeys_arrivals.trans spent) s.wait

theorem step_completes {s : State} (distinct : s.cfg.wf) (running : s.run = .running) (notStuck : ¬ s.KeyNeverComes) :
    ∃ t, step s = .next t := by
  by_cases ready : s.wait = .none
  · exact everyEnabledStepCompletes s running ready distinct
  by_cases noKey : s.kbq ++ s.arrivals.headD [] = []
  · exact ⟨_, step_idle running ready noKey fun spent => notStuck ⟨ready, noKey, spent⟩⟩
  · rw [step_waiting running ready]
    exact ⟨_, resumeWait_pending (s.deliverKeys_kbq ▸ noKey) s.wait⟩

/-- The outcomes of a step, each with the states that have it. -/
theorem step_outcomes {s : State} (distinct : s.cfg.wf) :
    (s.run = .halted ∧ step s = .fault .coreHalted) ∨
    (s.run = .running ∧ s.KeyNeverComes ∧ step s = .fault .keyNeverArrives) ∨
    (s.run = .running ∧ ¬ s.KeyNeverComes ∧ ∃ t, step s = .next t) := by
  rcases run : s.run with - | -
  · by_cases never : s.KeyNeverComes
    · exact .inr (.inl ⟨rfl, never, step_of_keyNeverComes run never⟩)
    · exact .inr (.inr ⟨rfl, never, step_completes distinct run never⟩)
  · exact .inl ⟨rfl, step_halted run⟩

theorem step_coreHalted_iff {s : State} (distinct : s.cfg.wf) : step s = .fault .coreHalted ↔ s.run = .halted := by
  obtain ⟨run, e⟩ | ⟨run, -, e⟩ | ⟨run, -, t, e⟩ := step_outcomes distinct <;> simp [e, run]

theorem step_keyNeverArrives_iff {s : State} (distinct : s.cfg.wf) :
    step s = .fault .keyNeverArrives ↔ s.run = .running ∧ s.KeyNeverComes := by
  obtain ⟨run, e⟩ | ⟨run, never, e⟩ | ⟨run, notStuck, t, e⟩ := step_outcomes distinct
  · simp [e, run]
  · simp [e, run, never]
  · simp [e, notStuck]

theorem step_not_stringNeverEnds_nor_refused {s : State} (distinct : s.cfg.wf) :
    step s ≠ .fault .stringNeverEnds ∧ ∀ r, step s ≠ .refused r := by
  obtain ⟨-, e⟩ | ⟨-, -, e⟩ | ⟨-, -, t, e⟩ := step_outcomes distinct <;> simp [e]

/-- Settles O50: the outcomes exclude each other, and so do the states that have them. -/
theorem whenAStepStops : Obligations.WhenAStepStops := fun _ distinct =>
  ⟨step_coreHalted_iff distinct, step_keyNeverArrives_iff distinct, step_idle,
    step_not_stringNeverEnds_nor_refused distinct⟩

/-! ### The key wait over any number of steps -/

/-- Settles O47, by induction on the number of empty slots before the key. -/
theorem keyWaitEndsWhenTheKeyComes : Obligations.KeyWaitEndsWhenTheKeyComes := by
  intro n
  induction n with
  | zero =>
    intro s key later running waiting distinct empty schedule
    have queue : s.kbq ++ s.arrivals.headD [] = [key] := by rw [empty, schedule]; rfl
    obtain ⟨t, next, wait, read, kbq, -, -, pc, -, -, -, -, -, arrivals⟩ :=
      keyWaitCompletes s key [] running waiting distinct queue
    exact ⟨t, run_succ_next next 0, wait, read, kbq, pc, by rw [arrivals, schedule]; rfl⟩
  | succ n ih =>
    intro s key later running waiting distinct empty schedule
    have noKey : s.kbq ++ s.arrivals.headD [] = [] := by rw [empty, schedule]; rfl
    have rest : s.arrivals.tail = List.replicate n [] ++ [key] :: later := by rw [schedule]; rfl
    have idle := step_idle running waiting noKey (by simp [rest])
    rw [run_succ_next idle]
    exact ih _ key later running waiting distinct empty rest

/-! ### What a step of a running core executes (R240) -/

/-- Settles O43: the state `u` of the statement is the one that `deliverKeys` leaves. -/
theorem stepRunsTheDecodedInstruction : Obligations.StepRunsTheDecodedInstruction := by
  intro s running ready u
  have fetched := step_fetch running ready
  rw [show s.deliverKeys = u from s.deliverKeys_eq] at fetched
  refine ⟨fetched, fun i ordinary decoded => ?_⟩
  rw [fetched, State.fetch_ordinary ordinary, decoded]

theorem State.withFetchWord_cell_pc {s : State} (hm : s.mem.wf = true) (w : Word) :
    (s.withFetchWord 16 w.toNat).cell s.pc = w := by
  have whole : BitVec.ofNat 16 (w.toNat % 2 ^ 16) = w := by
    rw [Nat.mod_eq_of_lt w.isLt, BitVec.ofNat_toNat, BitVec.setWidth_eq]
  exact (Memory.read_write_self hm s.pc.toNat _).trans whole

/-- With no keys scheduled, a core that does not wait runs the instruction whose encoding stands in the cell at PC. -/
theorem step_of_cell_encode {s : State} {i : Instr} (wf : i.wf = true) (running : s.run = .running) (ready : s.wait = .none)
    (noKeys : s.arrivals = []) (ordinary : s.isDevice s.pc = false) (stored : s.cell s.pc = encode i) :
    step s = exec i (s.setPc (s.pc + 1)) := by
  rw [step_fetch_of_no_arrivals running ready noKeys, State.memRead_ordinary ordinary, stored, decodeEncodeAgree i wf]

/-- Settles O51: the cell at PC holds the encoding, and the store leaves PC, the schedule and the devices alone. -/
theorem storedWordIsFetchedAndRun : Obligations.StoredWordIsFetchedAndRun := fun _ i wf hm ordinary noKeys =>
  step_of_cell_encode wf rfl rfl noKeys ordinary (State.withFetchWord_cell_pc hm (encode i))

/-! ### The end of a run and the reset (R222, R231, R242, R249) -/

/-- Settles O45: a halted core takes no step, so only its empty run answers a state. -/
theorem haltedIsTerminal : Obligations.HaltedIsTerminal := by
  refine ⟨fun s halted => step_halted halted, fun n s t halted h => ?_,
    fun s startPc => ⟨s.hostReset_run startPc, s.hostReset_fault startPc⟩⟩
  cases n with
  | zero => exact (Host.Outcome.next.inj h).symm
  | succ n =>
    rw [run_succ_fault (step_halted halted)] at h
    cases h

/-- Settles O57: memory after reset lists no cell, and the other values are those of the reset's definition. -/
theorem resetLeavesTheTablesValues : Obligations.ResetLeavesTheTablesValues :=
  ⟨fun _ => ⟨fun _ => rfl, rfl, rfl, rfl, rfl, rfl, fun a => Memory.read_nil a.toNat, rfl, rfl, rfl, rfl⟩,
    fun _ _ => ⟨rfl, fun _ => rfl, rfl, rfl, rfl, rfl, fun a => Memory.read_nil a.toNat, rfl, rfl, rfl, rfl⟩, rfl⟩

theorem FaultKind.code_ne_zero (k : FaultKind) : k.code ≠ 0 := by cases k <;> decide

theorem State.exitStatus_running {s : State} (running : s.run = .running) : s.exitStatus = none := by
  simp [State.exitStatus, running]

theorem State.exitStatus_halted {s : State} (halted : s.run = .halted) (noFault : s.fault = none) :
    s.exitStatus = some 0 := by simp [State.exitStatus, halted, noFault]

theorem State.exitStatus_faulted {s : State} {f : FaultRecord} (halted : s.run = .halted) (fault : s.fault = some f) :
    s.exitStatus = some f.kind.code := by simp [State.exitStatus, halted, fault]

/-- Settles O59: a fault's code is never 0, the status of a normal end. -/
theorem exitStatusTellsHowTheRunEnded : Obligations.ExitStatusTellsHowTheRunEnded := by
  intro s
  rcases run : s.run with - | -
  · simp [State.exitStatus_running run, State.endedNormally, State.endedInFault, run]
  rcases fault : s.fault with - | f
  · simp [State.exitStatus_halted run fault, State.endedNormally, State.endedInFault, run, fault]
  · have notZero := f.kind.code_ne_zero
    rw [State.exitStatus_faulted run fault]
    refine ⟨by simp [State.endedNormally, fault, notZero],
      by simp [State.endedInFault, run, fault, notZero], by simp, ?_⟩
    rintro _ - ⟨⟩
    exact ⟨fun kind => by rw [kind]; rfl, fun kind => by rw [kind]; rfl⟩

end Sys2Proof.Machine
end


section
/-! Words that differ only in bits their row ignores (spec/30_encoding.md R106): they meet the same row's test and have the
same fields, so they decode alike, or record different words in the same fatal row. -/

namespace Sys2Proof

/-! ### Words that agree outside the ignored bits -/

theorem xor_and_distrib (w w' m : Word) : (w ^^^ w') &&& m = (w &&& m) ^^^ (w' &&& m) := by
  ext k hk
  simp [Bool.and_xor_distrib_right]

section
variable {w w' ignored : Word}

/-- The premise of R106, read as one masked word that both share. -/
theorem and_eq_of_xor_and_eq_zero (alike : (w ^^^ w') &&& ~~~ ignored = 0) : w' &&& ~~~ ignored = w &&& ~~~ ignored := by
  rw [xor_and_distrib] at alike
  exact (BitVec.xor_eq_zero_iff.1 alike).symm

variable (alike : w' &&& ~~~ ignored = w &&& ~~~ ignored)
include alike

theorem row_of_alike {mask c : Word} (tested : ~~~ ignored &&& mask = mask) (row : w &&& mask = c) :
    w' &&& mask = c := by
  rw [← row, ← tested, ← BitVec.and_assoc, alike, BitVec.and_assoc]

theorem field_of_alike {start len : Nat} (covered : (~~~ ignored).extractLsb' start len = BitVec.allOnes len) :
    w'.extractLsb' start len = w.extractLsb' start len :=
  (field_of_masked alike covered).trans (field_of_masked rfl covered).symm

theorem regField_of_alike {lo : Nat} (covered : (~~~ ignored).extractLsb' lo 3 = BitVec.allOnes 3) :
    regField w' lo = regField w lo :=
  congrArg BitVec.toFin (field_of_alike alike covered)

end

theorem eq_of_alike_of_none_ignored {w w' : Word} (alike : w' &&& ~~~ 0x0000 = w &&& ~~~ 0x0000) : w' = w := by
  have all : ~~~ (0x0000 : Word) = BitVec.allOnes 16 := rfl
  rwa [all, BitVec.and_allOnes, BitVec.and_allOnes] at alike

/-- No row tests a bit that it ignores. -/
theorem Instr.ignoredBits_untested (i : Instr) : ~~~ i.ignoredBits &&& i.matchMask.2 = i.matchMask.2 := by
  cases i <;> simp only [Instr.ignoredBits, Instr.matchMask] <;> decide

/-! ### The rows that drop their ignored bits -/

/-- A row without ignored bits has equal words; another has equal fields. -/
theorem decode_eq_of_alike {w w' : Word} (alike : w' &&& ~~~ (decode w).ignoredBits = w &&& ~~~ (decode w).ignoredBits)
    (harmless : (decode w).raisesFatal = false) : decode w' = decode w := by
  have row := row_of_decode w
  have row' := row_of_alike alike (decode w).ignoredBits_untested row
  obtain ⟨i, decoded⟩ : ∃ i, decode w = i := ⟨_, rfl⟩
  rw [decoded] at alike harmless row row'
  cases i
  all_goals simp only [Instr.ignoredBits, Instr.matchMask] at alike row row'
  case addImm | andImm | br | jsr | ld | ldi | ldr | lea | st | sti | str => rw [eq_of_alike_of_none_ignored alike]
  case addReg =>
    rw [decode_addReg row, decode_addReg row', regField_of_alike alike rfl, regField_of_alike alike rfl,
      regField_of_alike alike rfl]
  case andReg =>
    rw [decode_andReg row, decode_andReg row', regField_of_alike alike rfl, regField_of_alike alike rfl,
      regField_of_alike alike rfl]
  case not =>
    rw [decode_not (field_of_masked row rfl), decode_not (field_of_masked row' rfl), regField_of_alike alike rfl,
      regField_of_alike alike rfl]
  case jmp =>
    rw [decode_jmp (field_of_masked row rfl), decode_jmp (field_of_masked row' rfl), regField_of_alike alike rfl]
  case jsrr => rw [decode_jsrr row, decode_jsrr row', regField_of_alike alike rfl]
  case trapGetc => exact (decode_trapVector (v := 0x20) row').trans decoded.symm
  case trapOut => exact (decode_trapVector (v := 0x21) row').trans decoded.symm
  case trapPuts => exact (decode_trapVector (v := 0x22) row').trans decoded.symm
  case trapIn => exact (decode_trapVector (v := 0x23) row').trans decoded.symm
  case trapPutsp => exact (decode_trapVector (v := 0x24) row').trans decoded.symm
  case trapHalt => exact (decode_trapVector (v := 0x25) row').trans decoded.symm
  case trapUnknown | rti | res => cases harmless

/-! ### The fatal rows, which record the word -/

theorem not_definedVector_of_decode {w : Word} {ignored : BitVec 4} {v : BitVec 8} (opcode : opcodeField w = 0xF#4)
    (decoded : decode w = .trapUnknown ignored v) : ¬ definedVector (trapvectField w) = true := by
  intro routine
  have selected := decodeTrap_matchMask (w.extractLsb' 8 4) (trapvectField w)
  rw [← decode_trap opcode, decoded, if_pos routine] at selected
  have masks : 0xF000#16 = 0xF0FF#16 := congrArg Prod.snd selected
  exact absurd masks (by decide)

theorem decode_trapUnknown {w : Word} (row : w &&& 0xF000 = 0xF000)
    (undefined : ¬ definedVector (trapvectField w) = true) :
    decode w = .trapUnknown (w.extractLsb' 8 4) (trapvectField w) ∧ encode (decode w) = w := by
  have vector : (trapvectField w).toNat = w.toNat % 256 := toNat_lowField w 8
  obtain ⟨unknown, -⟩ := Machine.unknownTrapIsFatal
  rw [definedVector_iff_toNat, vector] at undefined
  exact unknown w row (by omega)

end Sys2Proof

namespace Sys2Proof.Machine

/-- The instruction of a fatal row raises its error in a state `u` that does not depend on the word, and keeps the word
for the record. -/
theorem exec_decode_records_word {w : Word} {i : Instr} {s u : State} {kind : FaultKind}
    (kept : decode w = i ∧ encode (decode w) = w) (raised : exec i s = .next (u.raiseFatal kind (encode i))) :
    exec (decode w) s = .next { u.setRun .halted with fault := some ⟨kind, u.pc - 1, w⟩ } := by
  obtain ⟨decoded, encoded⟩ := kept
  rw [decoded] at encoded ⊢
  rw [raised, encoded]
  rfl

theorem exec_decode_eq_but_word_of_alike {w w' : Word}
    (alike : w' &&& ~~~ (decode w).ignoredBits = w &&& ~~~ (decode w).ignoredBits)
    (fatal : (decode w).raisesFatal = true) (s : State) : ∃ (kind : FaultKind) (t : State),
      exec (decode w) s = .next { t with fault := some ⟨kind, s.pc - 1, w⟩ } ∧
      exec (decode w') s = .next { t with fault := some ⟨kind, s.pc - 1, w'⟩ } := by
  obtain ⟨rti, res, -⟩ := reservedOpcodesAreFatal
  have row := row_of_decode w
  have row' := row_of_alike alike (decode w).ignoredBits_untested row
  obtain ⟨i, decoded⟩ : ∃ i, decode w = i := ⟨_, rfl⟩
  rw [decoded] at alike fatal row row'
  cases i with
  | rti _ => exact ⟨_, _, exec_decode_records_word (rti w row) rfl, exec_decode_records_word (rti w' row') rfl⟩
  | res _ => exact ⟨_, _, exec_decode_records_word (res w row) rfl, exec_decode_records_word (res w' row') rfl⟩
  | trapUnknown ignored v =>
    have opcode : opcodeField w = 0xF#4 := field_of_masked (m := 0xF000) (c := 0xF000) row rfl
    have undefined := not_definedVector_of_decode opcode decoded
    have vector : trapvectField w' = trapvectField w := field_of_alike (ignored := 0x0F00) alike rfl
    have kept := decode_trapUnknown row undefined
    have kept' := decode_trapUnknown row' (vector ▸ undefined)
    exact ⟨_, s.link.setRun .halted, exec_decode_records_word kept rfl, exec_decode_records_word kept' rfl⟩
  | _ => cases fatal

/-- Settles O6: outside the fatal rows the fields that are decoded agree; in them the whole word is. -/
theorem ignoredBitsChangeNothing : Obligations.IgnoredBitsChangeNothing := fun _ _ differ =>
  have alike := and_eq_of_xor_and_eq_zero differ
  ⟨decode_eq_of_alike alike, exec_decode_eq_but_word_of_alike alike⟩

end Sys2Proof.Machine
end

section
/-! PUTS and PUTSP against the loop that the spec writes (spec/43_trap.md R174, R176): where the model's walk ends, the loop
ends, and nowhere else. -/

namespace Sys2Proof.Machine

/-! ### The spec's loop and the model's walk -/

theorem walkEnds_of_walkString {chars : Word → List Byte} {n : Nat} {a : Word} {s t : State}
    (h : State.walkString chars n a s = some t) : WalkEnds chars a s t := by
  induction n generalizing a s with
  | zero => cases h
  | succ n ih =>
    rw [State.walkString_succ] at h
    split at h
    · obtain rfl := Option.some.inj h
      exact .stop a s ‹_›
    · exact .more a s t ‹_› (ih h)

/-- The loop has one end. -/
theorem WalkEnds.unique {chars : Word → List Byte} {a : Word} {s t u : State} (first : WalkEnds chars a s t)
    (second : WalkEnds chars a s u) : u = t := by
  induction first with
  | stop a s zero =>
    cases second with
    | stop => rfl
    | more _ _ _ nonzero => exact absurd zero nonzero
  | more a s t nonzero _ ih =>
    cases second with
    | stop _ _ zero => exact absurd zero nonzero
    | more _ _ _ _ rest => exact ih rest

theorem walkEnds_iff_of_walkString {chars : Word → List Byte} {n : Nat} {a : Word} {s t : State}
    (h : State.walkString chars n a s = some t) (u : State) : WalkEnds chars a s u ↔ u = t :=
  ⟨(walkEnds_of_walkString h).unique, fun e => e ▸ walkEnds_of_walkString h⟩

/-- How a string routine, which links and then writes the string, meets its statement. -/
theorem exec_meets_of_writeString {i : Instr} {s : State} {chars : Word → List Byte} (distinct : s.cfg.wf)
    (h : exec i s = s.link.writeString chars) :
    ∃ t, exec i s = .next t ∧ (∀ u, WalkEnds chars (s.reg 0) (s.setReg 7 s.pc) u ↔ u = t) ∧
      t.reg 7 = s.pc ∧ regsKeptBut [7] s t ∧ t.pc = s.pc ∧ t.cond = s.cond ∧ memoryKept s t ∧ controlKept s t ∧
      hostKept s t := by
  obtain ⟨t, next⟩ := State.writeString_completes (s := s.link) distinct chars
  have ended := State.writeString_next_iff.1 next
  obtain ⟨same, -⟩ := State.walkString_frame ended
  rw [State.link_reg_zero] at ended
  refine ⟨t, h.trans next, walkEnds_iff_of_walkString ended, ?_⟩
  rw [same]
  exact ⟨s.link_reg_seven, s.link_regsKept, rfl, rfl, s.link_cell, ⟨rfl, rfl, rfl⟩, rfl, rfl⟩

/-! ### The statements about PUTS and PUTSP -/

/-- Settles O29: PUTS writes the characters of the loop, and its walk ends. -/
theorem putsRunsItsLoopToTheEnd : Obligations.PutsRunsItsLoopToTheEnd := by
  refine ⟨fun _ row => decode_trapVector (v := 0x22) row, fun s distinct => ?_⟩
  rw [← funext putsBytes_eq]
  exact exec_meets_of_writeString distinct rfl

/-- Settles O31: as PUTS, with the characters of PUTSP. -/
theorem putspRunsItsLoopToTheEnd : Obligations.PutspRunsItsLoopToTheEnd := by
  refine ⟨fun _ row => decode_trapVector (v := 0x24) row, fun s distinct => ?_⟩
  rw [← funext putspBytes_eq]
  exact exec_meets_of_writeString distinct rfl

end Sys2Proof.Machine
end

section
/-! How each instruction leaves PC (spec/10_state.md R25). -/

namespace Sys2Proof.Machine

/-- Settles O37: JSRR reads its base register after the link (D15), a TRAP leaves PC as its link does
(`exec_trap_linkedAt`), and the other instructions that do not jump make no update of PC. -/
theorem pcAfterEachInstruction : Obligations.PcAfterEachInstruction := by
  intro i s t h
  cases i with
  | br n z p off =>
    obtain rfl := Host.Outcome.next.inj ((exec_br_eq_setPc n z p off s).symm.trans h)
    simp only [State.setPc_pc, branchTaken_iff, State.pcRelative]
  | jsrr baseR =>
    obtain rfl := Host.Outcome.next.inj h
    exact s.reg_link baseR
  | jmp | jsr => obtain rfl := Host.Outcome.next.inj h; rfl
  | addReg | addImm | andReg | andImm | not | lea | rti | res => obtain rfl := Host.Outcome.next.inj h; rfl
  | ld dr _ | ldr dr _ _ => obtain rfl := Host.Outcome.next.inj h; exact s.loadTo_pc dr _
  | ldi dr off =>
    obtain rfl := Host.Outcome.next.inj h
    exact ((s.indirect off).2.loadTo_pc dr _).trans (s.indirect_pc off)
  | st | str => obtain rfl := Host.Outcome.next.inj h; exact s.memWrite_pc _ _
  | sti sr off =>
    obtain rfl := Host.Outcome.next.inj h
    exact ((s.indirect off).2.memWrite_pc _ _).trans (s.indirect_pc off)
  | trapGetc | trapOut | trapPuts | trapIn | trapPutsp | trapHalt | trapUnknown => exact (exec_trap_linkedAt h rfl).2

end Sys2Proof.Machine
end

section
/-! Loading an image (spec/20_memory.md R73): a sequence of MemWrites to rising addresses. -/

namespace Sys2Proof.Machine

/-- The `k`-th address after the next one is the one at `k + 1` from here, wrapping. -/
theorem add_one_add_ofNat (a : Word) (k : Nat) : a + 1 + BitVec.ofNat 16 k = a + BitVec.ofNat 16 (k + 1) := by
  rw [Nat.add_comm, BitVec.ofNat_add, ← BitVec.add_assoc]; rfl

/-- Loading changes memory only, since each MemWrite does. -/
theorem State.loadWords_frame (s : State) (origin : Word) (words : List Word) :
    s.loadWords origin words = { s with mem := (s.loadWords origin words).mem } := by
  induction words generalizing origin s with
  | nil => rfl
  | cons w rest ih =>
    obtain ⟨-, -, -, written⟩ := writesAreStoredOrDropped s origin w
    rw [State.loadWords, ih, written]

theorem State.loadWords_cell_of_device {s : State} {a : Word} (device : s.isDevice a = true) (origin : Word)
    (words : List Word) : (s.loadWords origin words).cell a = s.cell a := by
  induction words generalizing origin s with
  | nil => rfl
  | cons w rest ih =>
    have dropped : (s.memWrite origin w).cell a = s.cell a := by
      by_cases here : a = origin
      · rw [State.memWrite_device (here ▸ device)]
      · exact s.cell_memWrite_of_ne w here
    rw [State.loadWords, ih (by simpa using device), dropped]

theorem State.loadWords_cell_of_outside {s : State} {a origin : Word} {words : List Word}
    (outside : ∀ k < words.length, a ≠ origin + BitVec.ofNat 16 k) : (s.loadWords origin words).cell a = s.cell a := by
  induction words generalizing origin s with
  | nil => rfl
  | cons w rest ih =>
    have first : a ≠ origin := by simpa using outside 0 (Nat.zero_lt_succ _)
    rw [State.loadWords, ih fun k hk => ?_, s.cell_memWrite_of_ne w first]
    rw [add_one_add_ofNat]
    exact outside (k + 1) (Nat.succ_lt_succ hk)

/-- An image of at most 65,536 words aims no two of them at one address, so a later word does not overwrite an earlier one. -/
theorem State.loadWords_cell_of_inside {s : State} {origin : Word} {words : List Word} (hm : s.mem.wf = true)
    (fits : words.length ≤ 65536) {k : Nat} (hk : k < words.length)
    (ordinary : s.isDevice (origin + BitVec.ofNat 16 k) = false) :
    (s.loadWords origin words).cell (origin + BitVec.ofNat 16 k) = words[k] := by
  induction words generalizing origin s k with
  | nil => cases hk
  | cons w rest ih =>
    rw [List.length_cons] at fits hk
    cases k with
    | zero =>
      have later : ∀ j < rest.length, origin ≠ origin + 1 + BitVec.ofNat 16 j := by
        intro j hj
        bv_omega
      rw [BitVec.add_zero] at ordinary ⊢
      rw [State.loadWords, State.loadWords_cell_of_outside later, State.cell_memWrite_self hm ordinary]
      rfl
    | succ k =>
      rw [← add_one_add_ofNat] at ordinary ⊢
      exact ih (State.memWrite_wf hm origin w) (by omega) (by omega) (by simpa using ordinary)

/-- Settles O58: an image that fits does not wrap, so the addresses it loads are those from the origin upward. -/
theorem loadImageWritesTheWords : Obligations.LoadImageWritesTheWords := by
  intro origin words s
  refine ⟨fun fits hm => ?_, fun long => if_neg (Nat.not_le_of_lt long)⟩
  refine ⟨s.loadWords origin words, if_pos fits, fun k hk ordinary => ?_, fun a elsewhere => ?_, s.loadWords_frame _ _⟩
  · exact State.loadWords_cell_of_inside hm (by omega) hk ordinary
  · obtain device | outside := elsewhere
    · exact State.loadWords_cell_of_device device origin words
    · refine State.loadWords_cell_of_outside fun k hk inside => ?_
      have place : a.toNat = (origin.toNat + k) % 65536 := by simp [inside]
      omega

end Sys2Proof.Machine
end
